-- ==== Sys2Proof/Word.lean ====
section
/-! DEFINITION. The three word sizes of the spec: bytes of the wire, host command words, request tags. -/

namespace Sys2Proof

/-- A byte: an unsigned integer 0 to 255 (R11). -/
abbrev Byte := BitVec 8

/-- A host command word, 32 bits (R80). -/
abbrev CmdWord := BitVec 32

/-- A request tag, 16 bits (R5, R27). -/
abbrev Tag := BitVec 16

end Sys2Proof
end

