-- ==== Sys2Proof/Syntax.lean ====
section
/-! DEFINITION. The instruction set: one constructor for each of the twelve rows of opcode_table.json, and the form its
encoding takes (a wire frame or a host command word). -/

namespace Sys2Proof

/-- The operations of EFD. The wire frames carry the bytes that vary (bitmap `high`, `low`, action or status byte,
checksum); `easy_check` has none (R79). The host command words carry both operand fields whether or not the operation
uses them (R80, R82). -/
inductive Instr where
  | easyCheck
  | easyInfo (high low cks : Byte)
  | easySend (high low act cks : Byte)
  | easyConfirm (high low cks : Byte)
  | easyAck (high low status cks : Byte)
  | nop (chan : BitVec 8) (arg : BitVec 16)
  | start (chan : BitVec 8) (arg : BitVec 16)
  | stop (chan : BitVec 8) (arg : BitVec 16)
  | setDelay (chan : BitVec 8) (arg : BitVec 16)
  | check (chan : BitVec 8) (arg : BitVec 16)
  | send (chan : BitVec 8) (arg : BitVec 16)
  | info (chan : BitVec 8) (arg : BitVec 16)
deriving DecidableEq, Repr

/-- The `dir` column of opcode_table.json (R87). -/
inductive Dir where
  | out
  | inbound
  | host
deriving DecidableEq, Repr

/-- The direction of each row (R73, R87). -/
def Instr.dir : Instr → Dir
  | .easyCheck => .out
  | .easyInfo _ _ _ => .out
  | .easySend _ _ _ _ => .out
  | .easyConfirm _ _ _ => .inbound
  | .easyAck _ _ _ _ => .inbound
  | .nop _ _ => .host
  | .start _ _ => .host
  | .stop _ _ => .host
  | .setDelay _ _ => .host
  | .check _ _ => .host
  | .send _ _ => .host
  | .info _ _ => .host

/-- An encoded instruction: a host command word, which has no byte order (R51), or the bytes of a wire frame in
transmission order (R50). -/
inductive Code where
  | word (w : CmdWord)
  | frame (bytes : List Byte)
deriving DecidableEq, Repr

end Sys2Proof
end

