-- ==== Sys2Proof/Decode.lean ====
section
/-! DEFINITION. Decoding host command words (R80, R81) and wire frames (R79, R87), total, rejecting by name; after it the
encoder, from the same tables. The checksum byte is no part of a row's mask: it is an operand here and is validated by
`parseFrame` and by the meanings (R87). -/

namespace Sys2Proof

/-- Why a word or a byte sequence names no instruction. -/
inductive Reject where
  /-- an operation code outside R81 -/
  | illegalOp
  /-- fewer than three bytes -/
  | notEnoughBytes
  /-- the byte at offset 0 is not `0xAA` -/
  | badHeader
  /-- the length byte is not the number of bytes less two (R71) -/
  | badLength
  /-- one of the 251 unassigned command bytes (R73) -/
  | unassignedCommand
  /-- an assigned command byte with a payload size that is not its own (R73) -/
  | badPayloadSize
  /-- `easy_check` with a last byte other than its constant `0x0A` (R79) -/
  | badConstant
  /-- a frame of another direction where an inbound one is expected (R87) -/
  | notInbound
deriving DecidableEq, Repr

/-- `op = w[31:24]` (R80). -/
def opField (w : CmdWord) : BitVec 8 := w.extractLsb' 24 8

/-- `chan = w[23:16]` (R80). -/
def chanField (w : CmdWord) : BitVec 8 := w.extractLsb' 16 8

/-- `arg = w[15:0]` (R80). -/
def argField (w : CmdWord) : BitVec 16 := w.extractLsb' 0 16

/-- The decoder of host command words (R81). -/
def decodeWord (w : CmdWord) : Except Reject Instr :=
  let c := chanField w
  let a := argField w
  if opField w = 0x00 then .ok (.nop c a)
  else if opField w = 0x01 then .ok (.start c a)
  else if opField w = 0x02 then .ok (.stop c a)
  else if opField w = 0x03 then .ok (.setDelay c a)
  else if opField w = 0x4A then .ok (.check c a)
  else if opField w = 0x4C then .ok (.send c a)
  else if opField w = 0x4E then .ok (.info c a)
  else .error .illegalOp

/-- The bytes behind the command byte, read by the row of that command byte (R73, R79). -/
def decodeBody (command : Byte) (rest : List Byte) : Except Reject Instr :=
  if command = 0x4A then
    match rest with
    | [k] => if k = 0x0A then .ok .easyCheck else .error .badConstant
    | _ => .error .badPayloadSize
  else if command = 0x4E then
    match rest with
    | [h, l, k] => .ok (.easyInfo h l k)
    | _ => .error .badPayloadSize
  else if command = 0x4C then
    match rest with
    | [h, l, a, k] => .ok (.easySend h l a k)
    | _ => .error .badPayloadSize
  else if command = 0x4B then
    match rest with
    | [h, l, k] => .ok (.easyConfirm h l k)
    | _ => .error .badPayloadSize
  else if command = 0x4D then
    match rest with
    | [h, l, st, k] => .ok (.easyAck h l st k)
    | _ => .error .badPayloadSize
  else .error .unassignedCommand

/-- The decoder of wire frames by the FRAME rows of the table: header, length and command byte (R79, R87). -/
def decodeFrame (bytes : List Byte) : Except Reject Instr :=
  match bytes with
  | hd :: len :: command :: rest =>
    if hd ≠ 0xAA then .error .badHeader
    else if len.toNat + 2 ≠ bytes.length then .error .badLength
    else decodeBody command rest
  | _ => .error .notEnoughBytes

/-- The decoder of inbound frames: only the rows with `dir = in` (R87). -/
def decodeInbound (bytes : List Byte) : Except Reject Instr :=
  match decodeFrame bytes with
  | .ok (.easyConfirm h l k) => .ok (.easyConfirm h l k)
  | .ok (.easyAck h l st k) => .ok (.easyAck h l st k)
  | .ok _ => .error .notInbound
  | .error r => .error r

/-- The decoder of an encoded instruction of either form. -/
def decode : Code → Except Reject Instr
  | .word w => decodeWord w
  | .frame bs => decodeFrame bs

/-- A host command word from its three fields (R80). -/
def cmdWord (op chan : BitVec 8) (arg : BitVec 16) : CmdWord := op ++ chan ++ arg

/-- The encoder (R79, R81). -/
def encode : Instr → Code
  | .easyCheck => .frame [0xAA, 0x02, 0x4A, 0x0A]
  | .easyInfo h l k => .frame [0xAA, 0x04, 0x4E, h, l, k]
  | .easySend h l a k => .frame [0xAA, 0x05, 0x4C, h, l, a, k]
  | .easyConfirm h l k => .frame [0xAA, 0x04, 0x4B, h, l, k]
  | .easyAck h l st k => .frame [0xAA, 0x05, 0x4D, h, l, st, k]
  | .nop c a => .word (cmdWord 0x00 c a)
  | .start c a => .word (cmdWord 0x01 c a)
  | .stop c a => .word (cmdWord 0x02 c a)
  | .setDelay c a => .word (cmdWord 0x03 c a)
  | .check c a => .word (cmdWord 0x4A c a)
  | .send c a => .word (cmdWord 0x4C c a)
  | .info c a => .word (cmdWord 0x4E c a)

/-- The `n` bytes of a number as opcode_table.json numbers a frame: the byte at offset 0 is the most significant (R87). -/
def tableBytes (n w : Nat) : List Byte :=
  (List.range n).map fun j => BitVec.ofNat 8 (w >>> (8 * (n - 1 - j)))

/-- The encoded instruction that an opcode-table row's bits stand for: 32 bits are a frame only if they decode as one,
else a host command word; any other width is a frame (DEDUCED, assumption log 8). -/
def tableCode (nbits w : Nat) : Code :=
  match decodeFrame (tableBytes (nbits / 8) w) with
  | .ok _ => .frame (tableBytes (nbits / 8) w)
  | .error _ => if nbits = 32 then .word (BitVec.ofNat 32 w) else .frame (tableBytes (nbits / 8) w)

/-- The instruction of an opcode-table row's bits. -/
def decodeTableWord (nbits w : Nat) : Option Instr := (decode (tableCode nbits w)).toOption

end Sys2Proof
end

