-- ==== Sys2Proof/Config.lean ====
section
/-! DEFINITION. The parameters of EFD (R5): its constants, and the two that the spec leaves OPEN, as opaque constants. -/

namespace Sys2Proof.Config

/-- First byte of every frame (R5, R70). -/
def header : Byte := 0xAA

/-- `TIMEOUT_TICKS`: the response timeout in ticks; a constant, not a register (R5, R31). -/
def timeoutTicks : BitVec 13 := 5000

/-- `DELAY_RESET`: the reset value of `delay_cfg` in ticks (R5, R26). -/
def delayReset : BitVec 16 := 500

/-- The largest payload a length byte can describe (R71, R106). -/
def maxPayload : Nat := 253

/-- The values `QDEPTH` may take: "an integer >= 1 or unbounded" (R5). `bounded m` is the capacity `m + 1`, so that
a capacity of 0 cannot be written down. -/
inductive QDepth where
  | unbounded
  | bounded (lessOne : Nat)
deriving DecidableEq, Repr, Inhabited

/-- The capacity as a number, `none` where the queue is unbounded. -/
def QDepth.capacity : QDepth → Option Nat
  | .unbounded => none
  | .bounded m => some (m + 1)

/-- The OPEN parameter `QDEPTH` (R5, D5): no value is chosen (DESIGN CHOICE, assumption log 4). -/
opaque qdepth : QDepth

/-- The two status tables are keyed by device type (R112). -/
inductive DevType where
  | drive
  | switch
deriving DecidableEq, Repr

/-- What a status byte means: the distinguished value `unknown`, the one name the spec shows, and names it does not
give (R112). -/
inductive Semantic where
  | unknown
  | topPosition
  | other (name : Nat)
deriving DecidableEq, Repr, Inhabited

/-- The OPEN parameter `statusSem` away from its one known entry (R112, D26): no table is chosen (DESIGN CHOICE, assumption log 5). -/
opaque statusSemOther : DevType → Byte → Semantic

end Sys2Proof.Config
end

