-- ==== Sys2Proof/Machine/Codec.lean ====
section
/-! DEFINITION. The Frame Codec: the pure functions of 40_codec.md (R100 to R112). They read and write no state. -/

namespace Sys2Proof.Machine

/-- The integer sum of a list of bytes (R12). -/
def byteSum (bs : List Byte) : Nat := (bs.map BitVec.toNat).sum

/-- `checksum` (R100). -/
def checksum (bs : List Byte) : Byte := BitVec.ofNat 8 ((256 - byteSum bs % 256) % 256)

/-- `channelToBytes` (R102): the one-hot bitmap `(high, low)` of a channel; `none` is the failure `InvalidChannel`.
The channel is a natural number (DEDUCED, assumption log 18). -/
def channelToBytes (c : Nat) : Option (Byte × Byte) :=
  if 1 ≤ c ∧ c ≤ 8 then some (0, 1#8 <<< (c - 1))
  else if 9 ≤ c ∧ c ≤ 15 then some (1#8 <<< (c - 9), 0)
  else none

/-- `((high << 8) | low) & 0x7FFF` as the 15-bit vector it is (R103, R104, R124): bit 15 is ignored. -/
def bitmap15 (high low : Byte) : BitVec 15 := (high ++ low).setWidth 15

/-- The indices of the 1 bits of a 15-bit vector, rising. -/
def setBits (v : BitVec 15) : List Nat := (List.range 15).filter fun i => v.getLsbD i

/-- `bytesToChannel` (R103): the channel of a bitmap with exactly one of bits 0 to 14 set, else 0. -/
def bytesToChannel (high low : Byte) : Nat :=
  match setBits (bitmap15 high low) with
  | [i] => i + 1
  | _ => 0

/-- `bitmapToChannels` (R104): every set bit among bits 0 to 14, as channel numbers, ascending. -/
def bitmapToChannels (high low : Byte) : List Nat := (setBits (bitmap15 high low)).map (· + 1)

/-- `buildFrame` (R106); `none` outside its domain, a payload of more than 253 bytes (DEDUCED, assumption log 13). -/
def buildFrame (command : Byte) (payload : List Byte) : Option (List Byte) :=
  if payload.length ≤ Config.maxPayload then
    let body := [Config.header, BitVec.ofNat 8 (payload.length + 2), command] ++ payload
    some (body ++ [checksum body])
  else none

/-- What `parseFrame` can answer (R107). -/
inductive Verdict where
  | notEnoughData
  | malformedLength
  | badHeader
  | checksumMismatch
  | frame (command : Byte) (payload : List Byte)
deriving DecidableEq, Repr

/-- The size `2 + bs[1]` of the candidate at the front of a buffer (R107, R121). -/
def candidateSize (bs : List Byte) : Nat := 2 + (bs.getD 1 0).toNat

/-- The candidate at the front of a buffer: its first `2 + bs[1]` bytes (R107). -/
def candidate (bs : List Byte) : List Byte := bs.take (candidateSize bs)

/-- The checks of `parseFrame` on a complete candidate, in the order of R108: length, header, checksum. -/
def judge (cand : List Byte) : Verdict :=
  if (cand.getD 1 0).toNat < 2 then .malformedLength
  else if cand.getD 0 0 ≠ Config.header then .badHeader
  else if cand.getLastD 0 ≠ checksum cand.dropLast then .checksumMismatch
  else .frame (cand.getD 2 0) (cand.dropLast.drop 3)

/-- `parseFrame` (R107). Bytes behind the candidate are not looked at. -/
def parseFrame (bs : List Byte) : Verdict :=
  if bs.length < 3 then .notEnoughData
  else if bs.length < candidateSize bs then .notEnoughData
  else judge (candidate bs)

/-- `buildCheck` (R110). -/
def buildCheck : Option (List Byte) := buildFrame 0x4A []

/-- `buildInfo` (R110); `none` when `channelToBytes` fails. -/
def buildInfo (c : Nat) : Option (List Byte) :=
  (channelToBytes c).bind fun hl => buildFrame 0x4E [hl.1, hl.2]

/-- `buildSend` (R110); `none` when `channelToBytes` fails. -/
def buildSend (c : Nat) (act : Byte) : Option (List Byte) :=
  (channelToBytes c).bind fun hl => buildFrame 0x4C [hl.1, hl.2, act]

/-- What the content of a valid frame says (R111). -/
inductive Response where
  | confirm (high low : Byte)
  | ack (high low status : Byte)
  | unrecognised
deriving DecidableEq, Repr

/-- `decodeResponse` (R111). -/
def decodeResponse (command : Byte) (payload : List Byte) : Response :=
  match payload with
  | [h, l] => if command = 0x4B then .confirm h l else .unrecognised
  | [h, l, st] => if command = 0x4D then .ack h l st else .unrecognised
  | _ => .unrecognised

/-- `statusSem` (R112): total; its one known entry is `0x01` of the drive table (D26), the rest is the OPEN parameter. -/
def statusSem (dev : Config.DevType) (status : Byte) : Config.Semantic :=
  if dev = .drive ∧ status = 0x01 then .topPosition else Config.statusSemOther dev status

end Sys2Proof.Machine
end

