-- ==== Sys2Proof/Machine/State.lean ====
section
/-! DEFINITION. The state of EFD as plain data (R20), its input and output events (R7, R8), its errors (R200), and the
state after reset (R36). -/

namespace Sys2Proof.Machine

/-- The dispatcher's sequencing state (R23). -/
inductive Phase where
  /-- nothing launched, no delay running -/
  | idle
  /-- the head's frame is at the transport, which has not yet reported -/
  | txBusy
  /-- the write succeeded, the head awaits a matching response, `to_cnt` runs -/
  | wait
  /-- the inter-command delay runs -/
  | delay
  /-- a write is outstanding whose request was rejected by STOP -/
  | txDrain
deriving DecidableEq, Repr

/-- The kind of a request (R28). -/
inductive Kind where
  | check
  | info
  | send
deriving DecidableEq, Repr

/-- An entry of the PendingQueue (R28). -/
structure Entry where
  kind : Kind
  chan : BitVec 4
  act : Byte
  tag : Tag
deriving DecidableEq, Repr

/-- The errors reported to the host (R200). -/
inductive Err where
  | invalidChannel
  | invalidAction
  | transportWriteFailed
  | responseTimeout
  | dispatcherStopped
  | queueFull
  | illegalOp
deriving DecidableEq, Repr

/-- The classes of the errors that have one (R200). -/
inductive ErrClass where
  | validationError
  | transportError
  | timeoutError
  | lifecycleError
deriving DecidableEq, Repr

/-- How a request left the queue (R8). -/
inductive Settlement where
  | channels (bitmap : BitVec 15)
  | done
  | err (e : Err)
deriving DecidableEq, Repr

/-- The output events (R8). -/
inductive Output where
  | txFrame (bytes : List Byte)
  | accept (tag : Tag)
  | cmdOk
  | refuse (e : Err)
  | settle (tag : Tag) (outcome : Settlement)
  | statusUpdate (chan : Nat) (status : Byte)
deriving DecidableEq, Repr

/-- The input events (R7). -/
inductive Event where
  | reset
  | cmd (w : CmdWord)
  | rxByte (b : Byte)
  | txDone (ok : Bool)
  | tick
deriving DecidableEq, Repr

/-- The state: the eight items of R20, then the model's own three fields. -/
structure State where
  /-- lifecycle mode (R22) -/
  running : Bool
  /-- dispatcher phase (R23) -/
  phase : Phase
  /-- `to_cnt`: ticks left of the response timeout (R24) -/
  toCnt : BitVec 13
  /-- `delay_cnt`: ticks left of the inter-command delay (R25) -/
  delayCnt : BitVec 16
  /-- `delay_cfg`: configured inter-command delay (R26) -/
  delayCfg : BitVec 16
  /-- `next_tag`: tag of the next accepted request (R27) -/
  nextTag : Tag
  /-- the PendingQueue, head first (R28) -/
  q : List Entry
  /-- the ReadBuffer, oldest byte first (R29) -/
  rb : List Byte
  /-- MODEL: the parameter `QDEPTH` of this instance, which no step writes (R37, DESIGN CHOICE, assumption log 4) -/
  qdepth : Config.QDepth
  /-- MODEL: input events presented and not yet taken, oldest first (R7, DESIGN CHOICE, assumption log 1) -/
  inputs : List Event
  /-- MODEL: the output events of the latest step, in order (R8, R9, DESIGN CHOICE, assumption log 3) -/
  outs : List Output
deriving DecidableEq, Repr

/-- The reasons for which the machine stops: none. The step is total (R9) and no error is fatal (R212). -/
inductive Fault where
deriving DecidableEq, Repr

/-- The reasons for which an instruction has no meaning. -/
inductive Refusal where
  /-- Raised by an arm of `exec` for an instruction that has no meaning yet; safe. No arm raises it. -/
  | notModelled (mnemonic : String)
deriving DecidableEq, Repr

/-- The state after reset (R36, R230). -/
def State.reset : State where
  running := false
  phase := .idle
  toCnt := 0
  delayCnt := 0
  delayCfg := Config.delayReset
  nextTag := 0
  q := []
  rb := []
  qdepth := Config.qdepth
  inputs := []
  outs := []

/-- What a step of EFD answers. -/
abbrev Result := Host.Outcome State Fault Refusal

end Sys2Proof.Machine
end

