-- ==== Sys2Proof/Machine/Flags.lean ====
section
/-! DEFINITION. EFD stores no flags (R30). These are the one-bit conditions and small encodings that its rules compute
within a step: queue full (R140), response matching (R168), the codes of errors, phases and kinds (R23, R28, R200). -/

namespace Sys2Proof.Machine

/-- `n = QDEPTH` for a queue of `n` entries (R140, check 4; R206). A queue of no entries is never full, since `QDEPTH`
is at least 1 (R5). -/
def queueFull (d : Config.QDepth) (n : Nat) : Bool :=
  match n, d with
  | 0, _ => false
  | _ + 1, .unbounded => false
  | n + 1, .bounded m => n == m

/-- `phase = WAIT` and the head is a CHECK: a `confirm` matches (R124, R168). -/
def confirmMatches (s : State) : Bool :=
  s.phase == .wait && (match s.q with
    | [] => false
    | e :: _ => e.kind == .check)

/-- `phase = WAIT` and the head is an INFO or a SEND: an `ack` matches (R125, R168). -/
def ackMatches (s : State) : Bool :=
  s.phase == .wait && (match s.q with
    | [] => false
    | e :: _ => e.kind == .info || e.kind == .send)

/-- The 3-bit error codes (R200); code 0 is "no error". -/
def Err.code : Err → BitVec 3
  | .invalidChannel => 1
  | .invalidAction => 2
  | .transportWriteFailed => 3
  | .responseTimeout => 4
  | .dispatcherStopped => 5
  | .queueFull => 6
  | .illegalOp => 7

/-- The class of an error, where it has one (R200). -/
def Err.errClass : Err → Option ErrClass
  | .invalidChannel => some .validationError
  | .invalidAction => some .validationError
  | .transportWriteFailed => some .transportError
  | .responseTimeout => some .timeoutError
  | .dispatcherStopped => some .lifecycleError
  | .queueFull => none
  | .illegalOp => none

/-- The suggested encoding of the phase, which is not architectural (R23). -/
def Phase.code : Phase → BitVec 3
  | .idle => 0
  | .txBusy => 1
  | .wait => 2
  | .delay => 3
  | .txDrain => 4

/-- The suggested encoding of a request kind (R28). -/
def Kind.code : Kind → BitVec 2
  | .check => 0
  | .info => 1
  | .send => 2

/-- The 30 bits of a queue entry, with the suggested kind encoding (R28). R28 gives the four widths and no bit positions:
that `kind` is highest, then `chan`, `act`, and `tag` lowest is the model's own choice (DESIGN CHOICE, assumption log 19). No
meaning reads this packing. -/
def Entry.bits (e : Entry) : BitVec 30 := e.kind.code ++ e.chan ++ e.act ++ e.tag

/-- The kinds of Response (R111). -/
inductive ResponseKind where
  | confirm
  | ack
deriving DecidableEq, Repr

/-- `expected(e)`: the response kind that resolves an entry (R148). -/
def expected (e : Entry) : ResponseKind :=
  match e.kind with
  | .check => .confirm
  | .info => .ack
  | .send => .ack

end Sys2Proof.Machine
end

