-- ==== Sys2Proof/Machine/Operands.lean ====
section
/-! DEFINITION. The operands of a command word and their legal values: the channel number (R56, R80), the action byte with
its five names (R76, R86). -/

namespace Sys2Proof.Machine

/-- The five actions the spec names (R76, R86). -/
inductive Action where
  | stop
  | top
  | tilt
  | bottom
  | intermediate
deriving DecidableEq, Repr

/-- The action byte an action name stands for (R86). -/
def Action.byte : Action → Byte
  | .stop => 0x10
  | .top => 0x20
  | .tilt => 0x24
  | .bottom => 0x40
  | .intermediate => 0x44

/-- The legal action bytes are exactly the five of R76. -/
def legalAction (a : Byte) : Bool :=
  a == 0x10 || a == 0x20 || a == 0x24 || a == 0x40 || a == 0x44

/-- Channels 1 to 15 exist (R56). -/
def legalChannel (chan : BitVec 8) : Bool := 1 ≤ chan.toNat && chan.toNat ≤ 15

/-- The action byte of a SEND word is `arg[7:0]`; `arg[15:8]` is ignored (R80, R143). -/
def actionOf (arg : BitVec 16) : Byte := arg.setWidth 8

/-- A legal channel number as the 4-bit `chan` field of a queue entry (R28). -/
def entryChan (chan : BitVec 8) : BitVec 4 := chan.setWidth 4

end Sys2Proof.Machine
end

