-- ==== Sys2Proof/Machine/Ops.lean ====
section
/-! DEFINITION. The shared procedures of the dispatcher: output, launch (R148, R161), the inter-command delay (R167),
settling the head, which is EFD's one way of taking an error on a launched request (R166, R212), refusing a word (R201 to
R207), enqueueing (R144), the request checks (R140), and delivering a Response (R124, R125). -/

namespace Sys2Proof.Machine

/-- `emit E`: append one output event to the step's outputs (R13). -/
def State.emit (s : State) (o : Output) : State := { s with outs := s.outs ++ [o] }

/-- `emit Refuse(err)`: the whole effect of an error of a command word (R212). -/
def refuse (e : Err) (s : State) : State := s.emit (.refuse e)

/-- `encode(e)`: the frame of a queue entry (R148). It is `none` only for an entry that never passed R140
(DESIGN CHOICE, assumption log 12). -/
def encodeEntry (e : Entry) : Option (List Byte) :=
  match e.kind with
  | .check => buildCheck
  | .info => buildInfo e.chan.toNat
  | .send => buildSend e.chan.toNat e.act

/-- The frame that `try_launch()` would send in this state: that of the head, if `running = 1`, `phase = IDLE` and the
queue is not empty (R161). -/
def launchFrame (s : State) : Option (List Byte) :=
  if s.running && s.phase == .idle then
    match s.q with
    | [] => none
    | e :: _ => encodeEntry e
  else none

/-- The launch itself: emit the frame and wait for the transport (R161). -/
def transmit (bytes : List Byte) (s : State) : State := { s.emit (.txFrame bytes) with phase := .txBusy }

/-- `try_launch()` (R161). -/
def tryLaunch (s : State) : State :=
  match launchFrame s with
  | some bytes => transmit bytes s
  | none => s

/-- Launch the head if its frame is exactly `bytes`; EFD puts no other frame on the wire (R84, R161, DEDUCED, assumption
log 6). -/
def launchExactly (bytes : List Byte) (s : State) : State :=
  if launchFrame s = some bytes then transmit bytes s else s

/-- `enter_delay()` (R167). -/
def enterDelay (s : State) : State :=
  if s.delayCfg = 0 then tryLaunch { s with delayCnt := 0, phase := .idle }
  else { s with delayCnt := s.delayCfg, phase := .delay }

/-- `settle_head(outcome)` (R166): the head leaves the queue, the timer is cleared, the delay starts. With an empty
queue, where no rule calls it, there is nothing to settle and the rest is done (DESIGN CHOICE, assumption log 10). -/
def settleHead (o : Settlement) (s : State) : State :=
  match s.q with
  | [] => enterDelay { s with toCnt := 0 }
  | e :: rest => enterDelay (State.emit { s with q := rest, toCnt := 0 } (.settle e.tag o))

/-- `enqueue(kind, chan, act)` (R144). -/
def enqueue (kind : Kind) (chan : BitVec 4) (act : Byte) (s : State) : State :=
  tryLaunch (State.emit { s with
    nextTag := s.nextTag + 1
    q := s.q ++ [{ kind := kind, chan := chan, act := act, tag := s.nextTag }] } (.accept s.nextTag))

/-- Checks 3 and 4 of R140, which do not depend on the word, then the enqueue. -/
def admitRequest (kind : Kind) (chan : BitVec 4) (act : Byte) (s : State) : State :=
  if s.running = false then refuse .dispatcherStopped s
  else if queueFull s.qdepth s.q.length then refuse .queueFull s
  else enqueue kind chan act s

/-- `deliver_confirm(high, low)` (R124). -/
def deliverConfirm (high low : Byte) (s : State) : State :=
  if confirmMatches s then settleHead (.channels (bitmap15 high low)) s else s

/-- The push to the Status Store of an ack: none where the bitmap is not one channel (R125). -/
def pushStatus (high low status : Byte) (s : State) : State :=
  if bytesToChannel high low = 0 then s else s.emit (.statusUpdate (bytesToChannel high low) status)

/-- `deliver_ack(high, low, status)` (R125). -/
def deliverAck (high low status : Byte) (s : State) : State :=
  if ackMatches s then settleHead .done (pushStatus high low status s) else pushStatus high low status s

/-- Reject every entry of the queue, head first (R192). -/
def rejectAll (s : State) : State :=
  { s with
    outs := s.outs ++ s.q.map fun e => Output.settle e.tag (.err .dispatcherStopped)
    q := [] }

end Sys2Proof.Machine
end

