-- ==== Sys2Proof/Machine/Control.lean ====
section
/-! DEFINITION. The meanings of the control operations NOP, START, STOP, SETDELAY (44_control.md). -/

namespace Sys2Proof.Machine

/-- `NOP` (R190). -/
def execNop (_chan : BitVec 8) (_arg : BitVec 16) (s : State) : Result := .next (s.emit .cmdOk)

/-- `START` (R191). -/
def execStart (_chan : BitVec 8) (_arg : BitVec 16) (s : State) : Result :=
  .next (tryLaunch (State.emit { s with running := true } .cmdOk))

/-- What STOP does with an outstanding write or a running timeout, after everything is cleared (R192). -/
def stopPhase (s : State) : State :=
  match s.phase with
  | .txBusy => { s with phase := .txDrain }
  | .wait => enterDelay s
  | .idle => s
  | .delay => s
  | .txDrain => s

/-- `STOP` (R192). -/
def execStop (_chan : BitVec 8) (_arg : BitVec 16) (s : State) : Result :=
  .next (stopPhase { rejectAll (s.emit .cmdOk) with rb := [], toCnt := 0, running := false })

/-- `SETDELAY` (R193). -/
def execSetDelay (_chan : BitVec 8) (arg : BitVec 16) (s : State) : Result :=
  .next (State.emit { s with delayCfg := arg } .cmdOk)

end Sys2Proof.Machine
end

