-- ==== Sys2Proof/Machine/Frames.lean ====
section
/-! DEFINITION. The meanings of the five wire frames. An outbound frame runs when it is the frame of the head at its
launch (R145 to R148, R161). An inbound frame runs in the step of its last byte: it is received only while running
(R120), dropped silently when its checksum is wrong (R122), and otherwise delivered (R123). Taking its bytes out of `rb`
is the receive path's work (R121). DEDUCED, assumption logs 6 and 7. -/

namespace Sys2Proof.Machine

/-- `easy_check` (R145): the constant frame of a CHECK at its launch. -/
def execEasyCheck (s : State) : Result := .next (launchExactly [0xAA, 0x02, 0x4A, 0x0A] s)

/-- `easy_info` (R146): the frame of an INFO at its launch. -/
def execEasyInfo (high low cks : Byte) (s : State) : Result :=
  .next (launchExactly [0xAA, 0x04, 0x4E, high, low, cks] s)

/-- `easy_send` (R147): the frame of a SEND at its launch. -/
def execEasySend (high low act cks : Byte) (s : State) : Result :=
  .next (launchExactly [0xAA, 0x05, 0x4C, high, low, act, cks] s)

/-- Whether a received frame reaches `deliver`: received while running (R120) and with the right last byte (R107). -/
def received (s : State) (covered : List Byte) (cks : Byte) : Bool := s.running && cks == checksum covered

/-- `easy_confirm` (R124). -/
def execEasyConfirm (high low cks : Byte) (s : State) : Result :=
  .next (if received s [0xAA, 0x04, 0x4B, high, low] cks then deliverConfirm high low s else s)

/-- `easy_ack` (R125). -/
def execEasyAck (high low status cks : Byte) (s : State) : Result :=
  .next (if received s [0xAA, 0x05, 0x4D, high, low, status] cks then deliverAck high low status s else s)

end Sys2Proof.Machine
end

