-- ==== Sys2Proof/Machine/Requests.lean ====
section
/-! DEFINITION. The meanings of the request operations CHECK, INFO, SEND (42_requests.md). The checks are made in the order
of R140: channel, action, lifecycle, queue space. -/

namespace Sys2Proof.Machine

/-- `CHECK` (R141). -/
def execCheck (_chan : BitVec 8) (_arg : BitVec 16) (s : State) : Result := .next (admitRequest .check 0 0 s)

/-- `INFO` (R142). -/
def execInfo (chan : BitVec 8) (_arg : BitVec 16) (s : State) : Result :=
  .next (if legalChannel chan = false then refuse .invalidChannel s
    else admitRequest .info (entryChan chan) 0 s)

/-- `SEND` (R143). -/
def execSend (chan : BitVec 8) (arg : BitVec 16) (s : State) : Result :=
  .next (if legalChannel chan = false then refuse .invalidChannel s
    else if legalAction (actionOf arg) = false then refuse .invalidAction s
    else admitRequest .send (entryChan chan) (actionOf arg) s)

end Sys2Proof.Machine
end

