-- ==== Sys2Proof/Machine/Dispatch.lean ====
section
/-! DEFINITION. One arm per instruction, each a direct call of its meaning. -/

namespace Sys2Proof.Machine

def exec (i : Instr) (s : State) : Host.Outcome State Fault Refusal :=
  match i with
  | .easyCheck => Sys2Proof.Machine.execEasyCheck s
  | .easyInfo high low cks => Sys2Proof.Machine.execEasyInfo high low cks s
  | .easySend high low act cks => Sys2Proof.Machine.execEasySend high low act cks s
  | .easyConfirm high low cks => Sys2Proof.Machine.execEasyConfirm high low cks s
  | .easyAck high low status cks => Sys2Proof.Machine.execEasyAck high low status cks s
  | .nop chan arg => Sys2Proof.Machine.execNop chan arg s
  | .start chan arg => Sys2Proof.Machine.execStart chan arg s
  | .stop chan arg => Sys2Proof.Machine.execStop chan arg s
  | .setDelay chan arg => Sys2Proof.Machine.execSetDelay chan arg s
  | .check chan arg => Sys2Proof.Machine.execCheck chan arg s
  | .send chan arg => Sys2Proof.Machine.execSend chan arg s
  | .info chan arg => Sys2Proof.Machine.execInfo chan arg s

end Sys2Proof.Machine
end

