-- ==== Sys2Proof/Machine/Events.lean ====
section
/-! DEFINITION. The reaction to each input event (R7): host words (R194), received bytes (R120 to R123, R126), transport
reports (R162 to R165), ticks (R172 to R174), reset (R230); and the order of simultaneous events (R209). -/

namespace Sys2Proof.Machine

/-- `Cmd(w)`: the decoded operation, or `Refuse(IllegalOp)` (R194). -/
def onCmd (w : CmdWord) (s : State) : Result :=
  match decodeWord w with
  | .ok i => exec i s
  | .error _ => .next (refuse .illegalOp s)

/-- `deliver` for the bytes of a valid frame: the inbound instruction they decode to, or nothing (R123, R126). -/
def deliver (cand : List Byte) (s : State) : Result :=
  match decodeInbound cand with
  | .ok i => exec i s
  | .error _ => .next s

/-- The loop of R121: remove and process every complete candidate at the front of `rb`. Each turn removes at least two
bytes, so as many turns as `rb` has bytes are enough (DEDUCED, assumption log 14). -/
def drain : Nat → State → Result
  | 0, s => .next s
  | fuel + 1, s =>
    match parseFrame s.rb with
    | .notEnoughData => .next s
    | .frame _ _ =>
      match deliver (candidate s.rb) { s with rb := s.rb.drop (candidateSize s.rb) } with
      | .next t => drain fuel t
      | .fault r => .fault r
      | .refused r => .refused r
    | .malformedLength => drain fuel { s with rb := s.rb.drop (candidateSize s.rb) }
    | .badHeader => drain fuel { s with rb := s.rb.drop (candidateSize s.rb) }
    | .checksumMismatch => drain fuel { s with rb := s.rb.drop (candidateSize s.rb) }

/-- `RxByte(b)` (R120, R121). -/
def onRxByte (b : Byte) (s : State) : Result :=
  if s.running then drain (s.rb.length + 1) { s with rb := s.rb ++ [b] } else .next s

/-- `TxDone(ok)` (R162 to R165). -/
def onTxDone (ok : Bool) (s : State) : Result :=
  match s.phase with
  | .txBusy =>
    if ok then .next { s with phase := .wait, toCnt := Config.timeoutTicks }
    else .next (settleHead (.err .transportWriteFailed) s)
  | .txDrain => .next (enterDelay s)
  | .idle => .next s
  | .wait => .next s
  | .delay => .next s

/-- `Tick` (R172 to R174). A counter that is 0 in its phase, which no run reaches, wraps (DESIGN CHOICE, assumption
log 11). -/
def onTick (s : State) : Result :=
  match s.phase with
  | .wait =>
    if s.toCnt - 1 = 0 then .next (settleHead (.err .responseTimeout) { s with toCnt := s.toCnt - 1 })
    else .next { s with toCnt := s.toCnt - 1 }
  | .delay =>
    if s.delayCnt - 1 = 0 then .next (tryLaunch { s with delayCnt := s.delayCnt - 1, phase := .idle })
    else .next { s with delayCnt := s.delayCnt - 1 }
  | .idle => .next s
  | .txBusy => .next s
  | .txDrain => .next s

/-- `Reset` (R230): the eight items of R20 take their reset values, nothing is emitted. The instance's parameter and the
events still to come are no state of EFD and stay (R37, DESIGN CHOICE, assumption log 16). -/
def onReset (s : State) : Result :=
  .next { State.reset with qdepth := s.qdepth, inputs := s.inputs }

/-- The reaction to one input event (R6, R9). -/
def react (e : Event) (s : State) : Result :=
  match e with
  | .reset => onReset s
  | .cmd w => onCmd w s
  | .rxByte b => onRxByte b s
  | .txDone ok => onTxDone ok s
  | .tick => onTick s

/-- Which ports are active in one hardware cycle, each with at most one event (R209; DEDUCED, assumption log 17). -/
structure Cycle where
  reset : Bool
  txDone : Option Bool
  rxByte : Option Byte
  tick : Bool
  cmd : Option CmdWord
deriving DecidableEq, Repr

/-- The consecutive steps a cycle stands for: Reset alone, else TxDone, RxByte, Tick, Cmd (R209). -/
def Cycle.events (c : Cycle) : List Event :=
  if c.reset then [.reset]
  else (c.txDone.map Event.txDone).toList ++ (c.rxByte.map Event.rxByte).toList
    ++ (if c.tick then [.tick] else []) ++ (c.cmd.map Event.cmd).toList

end Sys2Proof.Machine
end

