-- ==== Sys2Proof/Machine/Present.lean ====
section
/-! DEFINITION. How an instruction is put where the next step runs it (DESIGN CHOICE, assumption log 9), and the stimulus
lines of R85. -/

namespace Sys2Proof.Machine

/-- The bytes `bs` as the frame whose last byte is the next event: the receive path is open and holds all but the last
byte (R121). -/
def State.presentRx (s : State) (bs : List Byte) : State :=
  { s with running := true, rb := bs.dropLast, inputs := .rxByte (bs.getLastD 0) :: s.inputs }

/-- A request whose launch is the effect of the next event: it is alone in the queue and the delay has one tick left
(R173). -/
def State.presentLaunch (s : State) (kind : Kind) (chan : Nat) (act : Byte) : State :=
  { s with
    running := true
    phase := .delay
    toCnt := 0
    delayCnt := 1
    q := [{ kind := kind, chan := BitVec.ofNat 4 chan, act := act, tag := s.nextTag - 1 }]
    inputs := .tick :: s.inputs }

/-- A host command word as the next event. -/
def State.presentCmd (s : State) (w : CmdWord) : State := { s with inputs := .cmd w :: s.inputs }

/-- The channel of a frame EFD sends, where `bs` is one: the frame that `build` gives for the channel of its bitmap (R146 to
R148). -/
def builtChannel (high low : Byte) (build : Nat → Option (List Byte)) (bs : List Byte) : Option Nat :=
  if build (bytesToChannel high low) = some bs then some (bytesToChannel high low) else none

/-- The encoded instruction put where the next step runs it: a command word on the host's port; an outbound frame that
EFD can send (R84: the right checksum, a one-hot bitmap without bit 15, for `easy_send` one of the five actions) as a
request about to be launched; every other frame, an `easy_send` with an illegal action among them, on the receive port,
where it is dropped. The spec has no fetch and is silent on all of this placing (DESIGN CHOICE, assumption log 9). -/
def State.present (s : State) (c : Code) : State :=
  match c with
  | .word w => s.presentCmd w
  | .frame bs =>
    match decodeFrame bs with
    | .ok .easyCheck => s.presentLaunch .check 0 0
    | .ok (.easyInfo h l _) =>
      match builtChannel h l buildInfo bs with
      | some chan => s.presentLaunch .info chan 0
      | none => s.presentRx bs
    | .ok (.easySend h l a _) =>
      match builtChannel h l (fun chan => if legalAction a then buildSend chan a else none) bs with
      | some chan => s.presentLaunch .send chan a
      | none => s.presentRx bs
    | .ok _ => s.presentRx bs
    | .error _ => s.presentRx bs

/-- The stimulus lines of R85. -/
inductive Line where
  | reset
  | nop
  | start
  | stop
  | setDelay (n : BitVec 16)
  | check
  | info (c : BitVec 8)
  | send (c : BitVec 8) (a : Byte)
  | cmd (w : CmdWord)
  | rx (bs : List Byte)
  | txDone (ok : Bool)
  | tick (n : Nat)
deriving DecidableEq, Repr

/-- The input events a stimulus line stands for (R85). -/
def Line.events : Line → List Event
  | .reset => [.reset]
  | .nop => [.cmd (cmdWord 0x00 0 0)]
  | .start => [.cmd (cmdWord 0x01 0 0)]
  | .stop => [.cmd (cmdWord 0x02 0 0)]
  | .setDelay n => [.cmd (cmdWord 0x03 0 n)]
  | .check => [.cmd (cmdWord 0x4A 0 0)]
  | .info c => [.cmd (cmdWord 0x4E c 0)]
  | .send c a => [.cmd (cmdWord 0x4C c (a.setWidth 16))]
  | .cmd w => [.cmd w]
  | .rx bs => bs.map Event.rxByte
  | .txDone ok => [.txDone ok]
  | .tick n => List.replicate n .tick

end Sys2Proof.Machine
end

