-- ==== Sys2Proof/Machine/Step.lean ====
section
/-! DEFINITION. The step: the reaction to the oldest pending input event (R9). -/

namespace Sys2Proof.Machine

/-- One step: take the oldest pending event and react to it, the outputs starting empty. With no event pending EFD does
nothing (R6, DEDUCED, assumption log 2). -/
def step (s : State) : Host.Outcome State Fault Refusal :=
  match s.inputs with
  | [] => .next { s with outs := [] }
  | e :: rest => react e { s with inputs := rest, outs := [] }

/-- `s` with the instruction of an opcode-table row's bits where the next step runs it. -/
def State.withFetchWord (s : State) (nbits w : Nat) : State := s.present (tableCode nbits w)

end Sys2Proof.Machine
end

