-- ==== Sys2Proof/Safety.lean ====
section
/-! DEFINITION. What the claims speak of: the invariants of reachable states (R35), runs over input events and the
outputs they give, requests in flight (R23, R160), outstanding writes, and the named assumptions on the environment (R10). -/

namespace Sys2Proof.Machine

/-- An entry that passed the checks of R140 (R28). -/
def Entry.valid (e : Entry) : Bool :=
  match e.kind with
  | .check => e.chan == 0 && e.act == 0
  | .info => e.chan != 0 && e.act == 0
  | .send => e.chan != 0 && legalAction e.act

/-- The `n` tags given just before tag `t`, oldest first: consecutive modulo 65536, the last one `t - 1`. -/
def tagsBefore (t : Tag) (n : Nat) : List Tag :=
  (List.range n).map fun i => t - BitVec.ofNat 16 (n - i)

/-- The invariants of every reachable state: I1 to I8 of R35, and that every entry passed the checks of R140. -/
structure StateInv (s : State) : Prop where
  /-- I1 -/
  inFlight : s.phase = .txBusy ∨ s.phase = .wait → s.q ≠ [] ∧ s.running = true
  /-- I2 -/
  timeout : s.phase = .wait ↔ 0 < s.toCnt.toNat
  /-- I2 -/
  timeoutBound : s.toCnt.toNat ≤ 5000
  /-- I3 -/
  delay : s.phase = .delay ↔ 0 < s.delayCnt.toNat
  /-- I4 -/
  stopped : s.running = false →
    s.q = [] ∧ s.rb = [] ∧ (s.phase = .idle ∨ s.phase = .delay ∨ s.phase = .txDrain)
  /-- I5 -/
  notPostponed : s.running = true → s.phase = .idle → s.q = []
  /-- I6 -/
  noCandidate : parseFrame s.rb = .notEnoughData
  /-- I7 -/
  room : ∀ n, s.qdepth.capacity = some n → s.q.length ≤ n
  /-- I8 -/
  tags : s.q.map Entry.tag = tagsBefore s.nextTag s.q.length
  /-- every entry passed R140 -/
  entries : ∀ e ∈ s.q, e.valid = true

/-- The state once a transmission episode has ended with the queue left at `rest` and the outputs `os` emitted, written
out field by field from R161, R166 and R167: the timer cleared; with a nonzero `delay_cfg` the delay running; with
`delay_cfg = 0` the first entry of `rest` launched in the same step, if there is one and EFD is running. -/
def episodeEnds (s : State) (rest : List Entry) (os : List Output) : State :=
  if s.delayCfg ≠ 0 then
    { s with q := rest, toCnt := 0, delayCnt := s.delayCfg, phase := .delay, outs := s.outs ++ os }
  else
    match (if s.running then rest.head?.bind encodeEntry else none) with
    | some bs =>
      { s with q := rest, toCnt := 0, delayCnt := 0, phase := .txBusy, outs := s.outs ++ os ++ [.txFrame bs] }
    | none => { s with q := rest, toCnt := 0, delayCnt := 0, phase := .idle, outs := s.outs ++ os }

/-- The status push of an ack, as a list of outputs: none where the bitmap is not one channel (R125, R169). -/
def statusOutputs (high low status : Byte) : List Output :=
  if bytesToChannel high low = 0 then [] else [.statusUpdate (bytesToChannel high low) status]

/-- The immediate answers to a command word (R195). -/
def Output.isAnswer : Output → Bool
  | .accept _ => true
  | .cmdOk => true
  | .refuse _ => true
  | .txFrame _ => false
  | .settle _ _ => false
  | .statusUpdate _ _ => false

/-- Where `phase` goes when a transmission episode ends: DELAY, or with `delay_cfg = 0` IDLE, or TXBUSY if the next request
is launched in the same step (R167, R175). -/
def episodePhases (s : State) : List Phase := if s.delayCfg = 0 then [.idle, .txBusy] else [.delay]

/-- The transition table of `phase` (R175): the phases an event may lead to from a state. -/
def phaseTable (e : Event) (s : State) : List Phase :=
  match e with
  | .reset => [.idle]
  | .cmd w =>
    if opField w = 0x02 then
      match s.phase with
      | .idle => [.idle]
      | .txBusy => [.txDrain]
      | .wait => if s.delayCfg = 0 then [.idle] else [.delay]
      | .delay => [.delay]
      | .txDrain => [.txDrain]
    else if s.phase = .idle ∧ opField w ∈ [0x4A#8, 0x4C#8, 0x4E#8] then [.idle, .txBusy]
    else [s.phase]
  | .txDone ok =>
    match s.phase with
    | .txBusy => if ok then [.wait] else episodePhases s
    | .txDrain => episodePhases s
    | .idle => [.idle]
    | .wait => [.wait]
    | .delay => [.delay]
  | .rxByte _ => if s.phase = .wait then .wait :: episodePhases s else [s.phase]
  | .tick =>
    match s.phase with
    | .wait => if s.toCnt = 1 then episodePhases s else [.wait]
    | .delay => if s.delayCnt = 1 then [.idle, .txBusy] else [.delay]
    | .idle => [.idle]
    | .txBusy => [.txBusy]
    | .txDrain => [.txDrain]

/-- The entries in flight: the head while `phase` is TXBUSY or WAIT (R23, R160). -/
def inFlight (s : State) : List Entry :=
  match s.phase with
  | .txBusy => s.q.take 1
  | .wait => s.q.take 1
  | .idle => []
  | .delay => []
  | .txDrain => []

/-- A write is outstanding at the transport: exactly while `phase` is TXBUSY or TXDRAIN (R23, R211). -/
def writePending (s : State) : Bool := s.phase == .txBusy || s.phase == .txDrain

/-- The tags of the `Accept` outputs, in order. -/
def acceptTags (os : List Output) : List Tag :=
  os.filterMap fun o => match o with
    | .accept t => some t
    | .txFrame _ => none
    | .cmdOk => none
    | .refuse _ => none
    | .settle _ _ => none
    | .statusUpdate _ _ => none

/-- The tags of the `Settle` outputs, in order. -/
def settleTags (os : List Output) : List Tag :=
  os.filterMap fun o => match o with
    | .settle t _ => some t
    | .txFrame _ => none
    | .cmdOk => none
    | .refuse _ => none
    | .accept _ => none
    | .statusUpdate _ _ => none

/-- The frames of the `TxFrame` outputs, in order. -/
def sentFrames (os : List Output) : List (List Byte) :=
  os.filterMap fun o => match o with
    | .txFrame bs => some bs
    | .accept _ => none
    | .cmdOk => none
    | .refuse _ => none
    | .settle _ _ => none
    | .statusUpdate _ _ => none

/-- How many events of a list are `Tick`. -/
def tickCount (es : List Event) : Nat := es.countP (· == .tick)

/-- The machine fed one event: the step taken with that event alone pending. -/
def stepOn (e : Event) (s : State) : Result := step { s with inputs := [e] }

/-- The machine fed a list of events: the last state and all outputs in order, `none` if a step stops. -/
def runEvents : List Event → State → Option (State × List Output)
  | [], s => some (s, [])
  | e :: es, s =>
    match stepOn e s with
    | .next t => (runEvents es t).map fun r => (r.1, t.outs ++ r.2)
    | .fault _ => none
    | .refused _ => none

/-- How many reports of an outstanding write a run takes: `TxDone` events that arrive while a write is pending. -/
def reportsTaken : List Event → State → Nat
  | [], _ => 0
  | e :: es, s =>
    match stepOn e s with
    | .next t =>
      (match e with
        | .txDone _ => (writePending s).toNat
        | .reset => 0
        | .cmd _ => 0
        | .rxByte _ => 0
        | .tick => 0) + reportsTaken es t
    | .fault _ => 0
    | .refused _ => 0

/-- An unending run: `st` are the states, `ev n` the event of step `n`. -/
def IsRun (ev : Nat → Event) (st : Nat → State) : Prop :=
  ∀ n, stepOn (ev n) (st n) = .next (st (n + 1))

/-- Part of `ENV-TX` (R10): an outstanding write is reported some time. -/
def WritesAreReported (ev : Nat → Event) (st : Nat → State) : Prop :=
  ∀ n, writePending (st n) = true → ∃ m, n ≤ m ∧ ∃ ok, ev m = .txDone ok

/-- `ENV-TICK` (R10): ticks never stop. -/
def TicksNeverStop (ev : Nat → Event) : Prop := ∀ n, ∃ m, n ≤ m ∧ ev m = .tick

end Sys2Proof.Machine
end

