-- ==== Sys2Proof/WellFormed.lean ====
section
/-! DEFINITION. Which instruction terms are well formed: a frame carries its checksum (R72), a frame EFD builds has a
one-hot bitmap without bit 15 and a legal action byte (R74, R76, R84). A command word is always well formed: an operand
out of range is presented and refused, not ruled out (R80). -/

namespace Sys2Proof

open Machine

/-- The bitmap is one that `channelToBytes` can give (R102): one bit set, bit 15 clear. -/
def oneHot (high low : Byte) : Bool := channelToBytes (bytesToChannel high low) == some (high, low)

/-- The well-formedness of an instruction. -/
def Instr.wellFormed : Instr → Bool
  | .easyCheck => true
  | .easyInfo h l k => oneHot h l && k == checksum [0xAA, 0x04, 0x4E, h, l]
  | .easySend h l a k => oneHot h l && legalAction a && k == checksum [0xAA, 0x05, 0x4C, h, l, a]
  | .easyConfirm h l k => k == checksum [0xAA, 0x04, 0x4B, h, l]
  | .easyAck h l st k => k == checksum [0xAA, 0x05, 0x4D, h, l, st]
  | .nop _ _ => true
  | .start _ _ => true
  | .stop _ _ => true
  | .setDelay _ _ => true
  | .check _ _ => true
  | .send _ _ => true
  | .info _ _ => true

end Sys2Proof
end

