-- ==== Sys2Proof/Certificates/Slice0/Obligations.lean ====
section
/-! DEFINITION. The statements for the provers, in the order of the spec's files: codec, encoding, reset, how a step runs an
instruction, each instruction's result, each event, invariants, and the claims about whole runs. The fields `inputs` and `outs`
are the model's form of the ports (assumption logs 1 and 3): a taken event leaves `inputs`, a step's outputs stand in `outs`. -/

open Sys2Proof Sys2Proof.Machine

/-! ## The codec -/

/-- R100: the formula, its 8-bit reading (negation of the wrap-around sum), and the spec's corner cases. -/
def Obligations.ChecksumNegatesTheByteSum : Prop :=
  (∀ bs : List Byte, (checksum bs).toNat = (256 - byteSum bs % 256) % 256 ∧
    checksum bs = -(bs.foldl (· + ·) 0)) ∧
  checksum [] = 0 ∧ checksum [0x01] = 0xFF ∧ checksum [0x80] = 0x80 ∧ checksum [0xFF, 0x01] = 0x00 ∧
  checksum [0xAA, 0x02, 0x4A] = 0x0A

/-- R101: the appended checksum closes the sum; a last byte is right exactly when the whole sum is 0; every change of one
byte is seen; two changes that cancel and reorderings are not. -/
def Obligations.ChecksumClosesTheSum : Prop :=
  (∀ b : List Byte, byteSum (b ++ [checksum b]) % 256 = 0 ∧ checksum (b ++ [checksum b]) = 0) ∧
  (∀ (b : List Byte) (k : Byte), k = checksum b ↔ byteSum (b ++ [k]) % 256 = 0) ∧
  (∀ (b : List Byte) (j : Nat) (x : Byte), j < b.length → b.getD j 0 ≠ x → checksum (b.set j x) ≠ checksum b) ∧
  (∀ b c : List Byte, byteSum b % 256 = byteSum c % 256 → checksum b = checksum c) ∧
  (∀ b c : List Byte, b.Perm c → checksum b = checksum c)

/-- R102, for every number. -/
def Obligations.ChannelToBytesIsTheOneHotTable : Prop :=
  ∀ c : Nat,
    (1 ≤ c → c ≤ 8 → channelToBytes c = some (0x00, BitVec.ofNat 8 (2 ^ (c - 1)))) ∧
    (9 ≤ c → c ≤ 15 → channelToBytes c = some (BitVec.ofNat 8 (2 ^ (c - 9)), 0x00)) ∧
    (c = 0 ∨ 16 ≤ c → channelToBytes c = none) ∧
    (∀ h l, channelToBytes c = some (h, l) → h.getLsbD 7 = false)

/-- R103: the channel if exactly one of bits 0 to 14 is set, 0 otherwise; bit 15 is not looked at. -/
def Obligations.BytesToChannelReadsOneBit : Prop :=
  ∀ h l : Byte,
    (∀ i, i < 15 → (∀ j, j < 15 → (h ++ l).getLsbD j = decide (j = i)) → bytesToChannel h l = i + 1) ∧
    ((¬ ∃ i, i < 15 ∧ ∀ j, j < 15 → (h ++ l).getLsbD j = decide (j = i)) → bytesToChannel h l = 0)

/-- R104: the channels of the set bits 0 to 14, strictly rising, and the 15-bit vector they are read from. -/
def Obligations.BitmapToChannelsListsTheSetBits : Prop :=
  ∀ h l : Byte,
    (bitmapToChannels h l).Pairwise (· < ·) ∧ (bitmapToChannels h l).length ≤ 15 ∧
    (∀ c, c ∈ bitmapToChannels h l ↔ 1 ≤ c ∧ c ≤ 15 ∧ (h ++ l).getLsbD (c - 1) = true) ∧
    (∀ i, i < 15 → (bitmap15 h l).getLsbD i = (h ++ l).getLsbD i)

/-- R105, P1 to P4. -/
def Obligations.ChannelFunctionsAgree : Prop :=
  (∀ c h l, channelToBytes c = some (h, l) → bytesToChannel h l = c) ∧
  (∀ c, 1 ≤ c ∧ c ≤ 15 ↔ (channelToBytes c).isSome = true) ∧
  (∀ h l : Byte, bytesToChannel h l ≠ 0 → channelToBytes (bytesToChannel h l) = some (h &&& 0x7F, l)) ∧
  (∀ h l : Byte, bytesToChannel h l ≠ 0 ↔ (bitmapToChannels h l).length = 1) ∧
  (∀ h l : Byte, bytesToChannel h l ≠ 0 → bitmapToChannels h l = [bytesToChannel h l])

/-- R106 to R108: a built frame parses back to what it was built from, whatever bytes follow it. -/
def Obligations.ParseOfABuiltFrameGivesItBack : Prop :=
  ∀ (command : Byte) (payload rest : List Byte), payload.length ≤ 253 →
    ∃ f, buildFrame command payload = some f ∧ f.length = payload.length + 4 ∧
      parseFrame (f ++ rest) = .frame command payload ∧ candidate (f ++ rest) = f

/-- R109, cases (a), (b), (c), and that a response shortened by (c) is never a recognised one. -/
def Obligations.OneCorruptedByteIsJudgedByItsPlace : Prop :=
  ∀ (command : Byte) (payload f : List Byte) (j : Nat) (x : Byte),
    buildFrame command payload = some f → j < f.length → f.getD j 0 ≠ x →
    (j = 0 → parseFrame (f.set j x) = .badHeader) ∧
    (2 ≤ j → parseFrame (f.set j x) = .checksumMismatch) ∧
    (j = 1 → (f.getD 1 0).toNat < x.toNat → parseFrame (f.set j x) = .notEnoughData) ∧
    (j = 1 → x.toNat < 2 → parseFrame (f.set j x) = .malformedLength) ∧
    (j = 1 → 2 ≤ x.toNat → x.toNat < (f.getD 1 0).toNat →
      parseFrame (f.set j x) =
        (if f.getD (1 + x.toNat) 0 = checksum ((f.set 1 x).take (1 + x.toNat))
          then .frame command (payload.take (x.toNat - 2)) else .checksumMismatch) ∧
      (decodeResponse command payload ≠ .unrecognised →
        decodeResponse command (payload.take (x.toNat - 2)) = .unrecognised))

/-! ## Encoding -/

/-- Every instruction, with every operand at every value, decodes from its own encoding. -/
def Obligations.DecodeOfEncodeIsTheInstruction : Prop :=
  ∀ i : Instr, decode (encode i) = .ok i

/-- Every encoding that decodes is the encoding of what it decodes to: no bit is dropped and none has two meanings. -/
def Obligations.EncodeOfDecodeIsTheCode : Prop :=
  ∀ (c : Code) (i : Instr), decode c = .ok i → encode i = c

/-- R81: the seven operation codes, and no other. -/
def Obligations.OperationCodesAreTheSeven : Prop :=
  ∀ w : CmdWord,
    (opField w = 0x00 → decodeWord w = .ok (.nop (chanField w) (argField w))) ∧
    (opField w = 0x01 → decodeWord w = .ok (.start (chanField w) (argField w))) ∧
    (opField w = 0x02 → decodeWord w = .ok (.stop (chanField w) (argField w))) ∧
    (opField w = 0x03 → decodeWord w = .ok (.setDelay (chanField w) (argField w))) ∧
    (opField w = 0x4A → decodeWord w = .ok (.check (chanField w) (argField w))) ∧
    (opField w = 0x4C → decodeWord w = .ok (.send (chanField w) (argField w))) ∧
    (opField w = 0x4E → decodeWord w = .ok (.info (chanField w) (argField w))) ∧
    (opField w ∉ [0x00#8, 0x01#8, 0x02#8, 0x03#8, 0x4A#8, 0x4C#8, 0x4E#8] → decodeWord w = .error .illegalOp)

/-- A word of every family, written out from its encoding, decodes to the instruction it stands for. -/
def Obligations.WordsOfTheSpecDecode : Prop :=
  decodeTableWord 32 0xAA024A0A = some .easyCheck ∧
  decodeTableWord 48 0xAA044E000103 = some (.easyInfo 0x00 0x01 0x03) ∧
  decodeTableWord 56 0xAA054C000420E1 = some (.easySend 0x00 0x04 0x20 0xE1) ∧
  decodeTableWord 48 0xAA044B000502 = some (.easyConfirm 0x00 0x05 0x02) ∧
  decodeTableWord 56 0xAA054D00010102 = some (.easyAck 0x00 0x01 0x01 0x02) ∧
  decodeTableWord 32 0x030003E8 = some (.setDelay 0x00 1000) ∧
  decodeTableWord 32 0x4C03AB20 = some (.send 0x03 0xAB20) ∧
  decodeTableWord 32 0x4B000000 = none

/-- The inbound decoder reads a valid frame as `decodeResponse` reads its content (R111, R123). -/
def Obligations.InboundDecoderAgreesWithDecodeResponse : Prop :=
  ∀ (bs : List Byte) (command : Byte) (payload : List Byte), parseFrame bs = .frame command payload →
    (∀ h l, decodeResponse command payload = .confirm h l →
      decodeInbound (candidate bs) = .ok (.easyConfirm h l (checksum [0xAA, 0x04, 0x4B, h, l]))) ∧
    (∀ h l st, decodeResponse command payload = .ack h l st →
      decodeInbound (candidate bs) = .ok (.easyAck h l st (checksum [0xAA, 0x05, 0x4D, h, l, st]))) ∧
    (decodeResponse command payload = .unrecognised → ∃ r, decodeInbound (candidate bs) = .error r)

/-! ## Reset -/

/-- R36: the eight reset values; in the reset state bytes, reports and ticks have no effect. -/
def Obligations.ResetStateHasTheStatedValues : Prop :=
  State.reset.running = false ∧ State.reset.phase = .idle ∧ State.reset.toCnt = 0 ∧ State.reset.delayCnt = 0 ∧
  State.reset.delayCfg = 500 ∧ State.reset.nextTag = 0 ∧ State.reset.q = [] ∧ State.reset.rb = [] ∧
  (∀ b, stepOn (.rxByte b) State.reset = .next State.reset) ∧
  (∀ ok, stepOn (.txDone ok) State.reset = .next State.reset) ∧
  stepOn .tick State.reset = .next State.reset

/-- R230, R231: Reset in any state gives the eight items their reset values and emits nothing, whatever was queued. -/
def Obligations.ResetEventClearsEverythingSilently : Prop :=
  ∀ (s : State) (rest : List Event), s.inputs = .reset :: rest →
    ∃ t, step s = .next t ∧ t.running = false ∧ t.phase = .idle ∧ t.toCnt = 0 ∧ t.delayCnt = 0 ∧ t.delayCfg = 500 ∧
      t.nextTag = 0 ∧ t.q = [] ∧ t.rb = [] ∧ t.outs = []

/-! ## How a step runs an instruction -/

/-- A command word that decodes runs as its instruction, the outputs starting empty. -/
def Obligations.StepRunsTheDecodedCommand : Prop :=
  ∀ (s : State) (w : CmdWord) (rest : List Event) (i : Instr), s.inputs = .cmd w :: rest → decodeWord w = .ok i →
    step s = exec i { s with inputs := rest, outs := [] }

/-- A well-formed inbound frame runs as its instruction in the step of its last byte, its bytes gone from `rb`. -/
def Obligations.StepRunsTheReceivedFrame : Prop :=
  ∀ (s : State) (b : Byte) (rest : List Event) (i : Instr), s.inputs = .rxByte b :: rest → s.running = true →
    parseFrame s.rb = .notEnoughData → i.dir = .inbound → i.wellFormed = true → encode i = .frame (s.rb ++ [b]) →
    step s = exec i { s with rb := [], inputs := rest, outs := [] }

/-- The frame of the head runs as its instruction in the step of the tick that ends the delay. -/
def Obligations.StepRunsTheLaunchedFrame : Prop :=
  ∀ (s : State) (rest : List Event) (e : Entry) (more : List Entry) (bs : List Byte) (i : Instr),
    s.inputs = .tick :: rest → s.running = true → s.phase = .delay → s.delayCnt = 1 → s.q = e :: more →
    encodeEntry e = some bs → encode i = .frame bs →
    step s = exec i { s with phase := .idle, delayCnt := 0, inputs := rest, outs := [] }

/-- R9: the step is total. -/
def Obligations.EveryStepGivesANextState : Prop :=
  ∀ s : State, ∃ t, step s = .next t

/-! ## Control operations -/

/-- R190, in every state. -/
def Obligations.NopAnswersAndChangesNothing : Prop :=
  ∀ (chan : BitVec 8) (arg : BitVec 16) (s : State),
    exec (.nop chan arg) s = .next { s with outs := s.outs ++ [.cmdOk] }

/-- R191, wherever the queue is empty in IDLE (I4 and I5 of R35): no launch, nothing but `running` and the answer. -/
def Obligations.StartSetsRunningOnly : Prop :=
  ∀ (chan : BitVec 8) (arg : BitVec 16) (s : State), (s.phase = .idle → s.q = []) →
    exec (.start chan arg) s = .next { s with running := true, outs := s.outs ++ [.cmdOk] }

/-- R192, in every state and phase. -/
def Obligations.StopRejectsEverythingAndKeepsPacing : Prop :=
  ∀ (chan : BitVec 8) (arg : BitVec 16) (s : State),
    exec (.stop chan arg) s = .next
      { s with
        running := false
        q := []
        rb := []
        toCnt := 0
        outs := s.outs ++ .cmdOk :: s.q.map fun e => Output.settle e.tag (.err .dispatcherStopped)
        phase := match s.phase with
          | .txBusy => .txDrain
          | .wait => if s.delayCfg = 0 then .idle else .delay
          | .idle => .idle
          | .delay => .delay
          | .txDrain => .txDrain
        delayCnt := if s.phase = .wait then s.delayCfg else s.delayCnt }

/-- R193, in every state. -/
def Obligations.SetDelayWritesOnlyTheDelayRegister : Prop :=
  ∀ (chan : BitVec 8) (arg : BitVec 16) (s : State),
    exec (.setDelay chan arg) s = .next { s with delayCfg := arg, outs := s.outs ++ [.cmdOk] }

/-- R194, through the step, in every state. -/
def Obligations.IllegalOperationIsRefused : Prop :=
  ∀ (s : State) (w : CmdWord) (rest : List Event), s.inputs = .cmd w :: rest →
    opField w ∉ [0x00#8, 0x01#8, 0x02#8, 0x03#8, 0x4A#8, 0x4C#8, 0x4E#8] →
    step s = .next { s with inputs := rest, outs := [.refuse .illegalOp] }

/-- R195 and R140: one answer, first; what kind it is; a refused word changes nothing. -/
def Obligations.EveryCommandHasOneAnswerFirst : Prop :=
  ∀ (s : State) (w : CmdWord) (rest : List Event), s.inputs = .cmd w :: rest →
    ∃ t a os, step s = .next t ∧ t.outs = a :: os ∧ a.isAnswer = true ∧ (∀ o ∈ os, o.isAnswer = false) ∧
      (opField w ∈ [0x00#8, 0x01#8, 0x02#8, 0x03#8] → a = .cmdOk) ∧
      (opField w ∈ [0x4A#8, 0x4C#8, 0x4E#8] → a = .accept s.nextTag ∨ ∃ e, a = .refuse e) ∧
      (opField w ∉ [0x00#8, 0x01#8, 0x02#8, 0x03#8, 0x4A#8, 0x4C#8, 0x4E#8] → a = .refuse .illegalOp) ∧
      (∀ e, a = .refuse e → t = { s with inputs := rest, outs := [.refuse e] }) ∧
      (∀ o ∈ os, (∃ tag, o = .settle tag (.err .dispatcherStopped)) ∨ ∃ bs, o = .txFrame bs)

/-! ## Request operations -/

/-- R140: the checks of the three requests, in order; the first that fails is the one output and changes nothing else. -/
def Obligations.RequestChecksInOrder : Prop :=
  ∀ (chan : BitVec 8) (arg : BitVec 16) (s : State),
    (¬ (1 ≤ chan.toNat ∧ chan.toNat ≤ 15) →
      exec (.info chan arg) s = .next { s with outs := s.outs ++ [.refuse .invalidChannel] } ∧
      exec (.send chan arg) s = .next { s with outs := s.outs ++ [.refuse .invalidChannel] }) ∧
    (1 ≤ chan.toNat → chan.toNat ≤ 15 →
      arg.setWidth 8 ∉ [0x10#8, 0x20#8, 0x24#8, 0x40#8, 0x44#8] →
      exec (.send chan arg) s = .next { s with outs := s.outs ++ [.refuse .invalidAction] }) ∧
    (∀ i, i = .check chan arg ∨
        (1 ≤ chan.toNat ∧ chan.toNat ≤ 15 ∧ (i = .info chan arg ∨
          (i = .send chan arg ∧ arg.setWidth 8 ∈ [0x10#8, 0x20#8, 0x24#8, 0x40#8, 0x44#8]))) →
      (s.running = false → exec i s = .next { s with outs := s.outs ++ [.refuse .dispatcherStopped] }) ∧
      (s.running = true → s.qdepth.capacity = some s.q.length →
        exec i s = .next { s with outs := s.outs ++ [.refuse .queueFull] }))

/-- R141 with R144: a CHECK that passes its checks is enqueued, and launched at once in IDLE. -/
def Obligations.CheckIsAcceptedAndLaunched : Prop :=
  ∀ (chan : BitVec 8) (arg : BitVec 16) (s : State),
    s.running = true → s.qdepth.capacity ≠ some s.q.length → (s.phase = .idle → s.q = []) →
    exec (.check chan arg) s = .next
      { s with
        nextTag := s.nextTag + 1
        q := s.q ++ [{ kind := .check, chan := 0, act := 0, tag := s.nextTag }]
        phase := if s.phase = .idle then .txBusy else s.phase
        outs := s.outs ++ .accept s.nextTag ::
          (if s.phase = .idle then [.txFrame [0xAA, 0x02, 0x4A, 0x0A]] else []) }

/-- R142 with R144 and R146. -/
def Obligations.InfoIsAcceptedAndLaunched : Prop :=
  ∀ (chan : BitVec 8) (arg : BitVec 16) (s : State) (h l : Byte),
    s.running = true → s.qdepth.capacity ≠ some s.q.length → (s.phase = .idle → s.q = []) →
    channelToBytes chan.toNat = some (h, l) →
    exec (.info chan arg) s = .next
      { s with
        nextTag := s.nextTag + 1
        q := s.q ++ [{ kind := .info, chan := BitVec.ofNat 4 chan.toNat, act := 0, tag := s.nextTag }]
        phase := if s.phase = .idle then .txBusy else s.phase
        outs := s.outs ++ .accept s.nextTag ::
          (if s.phase = .idle then [.txFrame [0xAA, 0x04, 0x4E, h, l, checksum [0xAA, 0x04, 0x4E, h, l]]] else []) }

/-- R143 with R144 and R147. -/
def Obligations.SendIsAcceptedAndLaunched : Prop :=
  ∀ (chan : BitVec 8) (arg : BitVec 16) (s : State) (h l act : Byte),
    s.running = true → s.qdepth.capacity ≠ some s.q.length → (s.phase = .idle → s.q = []) →
    channelToBytes chan.toNat = some (h, l) → arg.setWidth 8 = act →
    act ∈ [0x10#8, 0x20#8, 0x24#8, 0x40#8, 0x44#8] →
    exec (.send chan arg) s = .next
      { s with
        nextTag := s.nextTag + 1
        q := s.q ++ [{ kind := .send, chan := BitVec.ofNat 4 chan.toNat, act := act, tag := s.nextTag }]
        phase := if s.phase = .idle then .txBusy else s.phase
        outs := s.outs ++ .accept s.nextTag ::
          (if s.phase = .idle
            then [.txFrame [0xAA, 0x05, 0x4C, h, l, act, checksum [0xAA, 0x05, 0x4C, h, l, act]]] else []) }

/-! ## The wire frames -/

/-- R145 with R161: the frame of a CHECK at the head is sent and the transport awaited, nothing else. -/
def Obligations.EasyCheckIsSentForACheckHead : Prop :=
  ∀ (s : State) (e : Entry) (rest : List Entry),
    s.running = true → s.phase = .idle → s.q = e :: rest → e.kind = .check →
    exec .easyCheck s = .next
      { s with phase := .txBusy, outs := s.outs ++ [.txFrame [0xAA, 0x02, 0x4A, 0x0A]] }

/-- R146 with R161. -/
def Obligations.EasyInfoIsSentForAnInfoHead : Prop :=
  ∀ (s : State) (e : Entry) (rest : List Entry) (h l : Byte),
    s.running = true → s.phase = .idle → s.q = e :: rest → e.kind = .info →
    channelToBytes e.chan.toNat = some (h, l) →
    exec (.easyInfo h l (checksum [0xAA, 0x04, 0x4E, h, l])) s = .next
      { s with
        phase := .txBusy
        outs := s.outs ++ [.txFrame [0xAA, 0x04, 0x4E, h, l, checksum [0xAA, 0x04, 0x4E, h, l]]] }

/-- R147 with R161. -/
def Obligations.EasySendIsSentForASendHead : Prop :=
  ∀ (s : State) (e : Entry) (rest : List Entry) (h l : Byte),
    s.running = true → s.phase = .idle → s.q = e :: rest → e.kind = .send →
    channelToBytes e.chan.toNat = some (h, l) →
    exec (.easySend h l e.act (checksum [0xAA, 0x05, 0x4C, h, l, e.act])) s = .next
      { s with
        phase := .txBusy
        outs := s.outs ++ [.txFrame [0xAA, 0x05, 0x4C, h, l, e.act, checksum [0xAA, 0x05, 0x4C, h, l, e.act]]] }

/-- The MODEL's reading (assumption log 6): an outbound frame that is not the frame of a launchable head is not sent. -/
def Obligations.NoOtherFrameIsSent : Prop :=
  ∀ (s : State) (i : Instr) (bs : List Byte), i.dir = .out → encode i = .frame bs →
    ¬ (s.running = true ∧ s.phase = .idle ∧ ∃ e rest, s.q = e :: rest ∧ encodeEntry e = some bs) →
    exec i s = .next s

/-- R124 with R166: a matched confirm settles the CHECK with the 15-bit vector; any other confirm does nothing. -/
def Obligations.EasyConfirmSettlesAWaitingCheck : Prop :=
  ∀ (s : State) (h l : Byte), s.running = true →
    (∀ e rest, s.phase = .wait → s.q = e :: rest → e.kind = .check →
      exec (.easyConfirm h l (checksum [0xAA, 0x04, 0x4B, h, l])) s =
        .next (episodeEnds s rest [.settle e.tag (.channels ((h ++ l).setWidth 15))])) ∧
    ((s.phase ≠ .wait ∨ s.q = [] ∨ ∃ e rest, s.q = e :: rest ∧ e.kind ≠ .check) →
      exec (.easyConfirm h l (checksum [0xAA, 0x04, 0x4B, h, l])) s = .next s)

/-- R125 with R166: the status push always; a matched ack settles the INFO or SEND, whatever its channel. -/
def Obligations.EasyAckPushesStatusAndSettles : Prop :=
  ∀ (s : State) (h l st : Byte), s.running = true →
    (∀ e rest, s.phase = .wait → s.q = e :: rest → e.kind ≠ .check →
      exec (.easyAck h l st (checksum [0xAA, 0x05, 0x4D, h, l, st])) s =
        .next (episodeEnds s rest (statusOutputs h l st ++ [.settle e.tag .done]))) ∧
    ((s.phase ≠ .wait ∨ s.q = [] ∨ ∃ e rest, s.q = e :: rest ∧ e.kind = .check) →
      exec (.easyAck h l st (checksum [0xAA, 0x05, 0x4D, h, l, st])) s =
        .next { s with outs := s.outs ++ statusOutputs h l st })

/-- The MODEL's reading (assumption log 7): running an inbound frame while stopped, or one whose checksum is wrong, does
nothing. R120 and R122 speak of received bytes and of candidates in `rb`, and no step runs such a frame. -/
def Obligations.BadOrUnheardFramesDoNothing : Prop :=
  ∀ (s : State) (i : Instr), i.dir = .inbound → (s.running = false ∨ i.wellFormed = false) → exec i s = .next s

/-! ## Received bytes -/

/-- R120. -/
def Obligations.BytesAreDiscardedWhileStopped : Prop :=
  ∀ (s : State) (b : Byte) (rest : List Event), s.inputs = .rxByte b :: rest → s.running = false →
    step s = .next { s with inputs := rest, outs := [] }

/-- R128: the loop finds at most one candidate a byte, and a frame only where the whole buffer is the candidate. -/
def Obligations.OneCandidateAByte : Prop :=
  ∀ (rb : List Byte) (b : Byte), parseFrame rb = .notEnoughData → parseFrame (rb ++ [b]) ≠ .notEnoughData →
    (candidate (rb ++ [b]) = rb ++ [b] ∨ ((rb ++ [b]).length = 3 ∧ (rb ++ [b]).getD 1 0 = 0)) ∧
    parseFrame ((rb ++ [b]).drop (candidateSize (rb ++ [b]))) = .notEnoughData ∧
    (∀ command payload, parseFrame (rb ++ [b]) = .frame command payload → candidate (rb ++ [b]) = rb ++ [b])

/-- R121, R122, R126: a partial frame stays; a corrupt candidate goes without a trace; so does an unrecognised frame. -/
def Obligations.IncompleteStaysCorruptGoesSilently : Prop :=
  ∀ (s : State) (b : Byte) (rest : List Event), s.inputs = .rxByte b :: rest → s.running = true →
    parseFrame s.rb = .notEnoughData →
    (parseFrame (s.rb ++ [b]) = .notEnoughData →
      step s = .next { s with rb := s.rb ++ [b], inputs := rest, outs := [] }) ∧
    (parseFrame (s.rb ++ [b]) ∈ [.malformedLength, .badHeader, .checksumMismatch] →
      step s = .next
        { s with rb := (s.rb ++ [b]).drop (candidateSize (s.rb ++ [b])), inputs := rest, outs := [] }) ∧
    (∀ command payload, parseFrame (s.rb ++ [b]) = .frame command payload →
      decodeResponse command payload = .unrecognised →
      step s = .next { s with rb := [], inputs := rest, outs := [] })

/-- R33: between steps the ReadBuffer holds at most 256 bytes, inside one at most 257. -/
def Obligations.ReadBufferNeverOverflows : Prop :=
  ∀ (rb : List Byte) (b : Byte), parseFrame rb = .notEnoughData → rb.length ≤ 256 ∧ (rb ++ [b]).length ≤ 257

/-- R171 (and O4 of R57): outside WAIT a received byte touches nothing but the ReadBuffer, and its only outputs are status
pushes for channels 1 to 15. -/
def Obligations.UnsolicitedBytesTouchOnlyTheBuffer : Prop :=
  ∀ (s : State) (b : Byte) (rest : List Event), s.inputs = .rxByte b :: rest → s.phase ≠ .wait →
    ∃ rb os, step s = .next { s with rb := rb, inputs := rest, outs := os } ∧
      ∀ o ∈ os, ∃ c st, o = .statusUpdate c st ∧ 1 ≤ c ∧ c ≤ 15

/-- R210: what an RxByte step emits, and in which order; at most three outputs. -/
def Obligations.ReceivedByteEmitsAtMostThreeInOrder : Prop :=
  ∀ (s t : State) (b : Byte) (rest : List Event), s.inputs = .rxByte b :: rest →
    parseFrame s.rb = .notEnoughData → step s = .next t →
    ∃ su se tx : List Output, t.outs = su ++ se ++ tx ∧ su.length ≤ 1 ∧ se.length ≤ 1 ∧ tx.length ≤ 1 ∧
      (∀ o ∈ su, ∃ c st, o = .statusUpdate c st) ∧ (∀ o ∈ se, ∃ tag out, o = .settle tag out) ∧
      (∀ o ∈ tx, ∃ bs, o = .txFrame bs) ∧ (tx ≠ [] → s.delayCfg = 0)

/-- R61 with R121: a built frame received into an empty buffer, in two chunks cut anywhere, is delivered once, in the step
of its last byte, and leaves the buffer empty. -/
def Obligations.FrameInAnyTwoChunksIsDeliveredOnce : Prop :=
  ∀ (command : Byte) (payload f : List Byte) (s : State), buildFrame command payload = some f →
    s.running = true → s.rb = [] →
    ∃ t, deliver f { s with inputs := [], outs := [] } = .next t ∧ t.rb = [] ∧
      ∀ a c : List Byte, a ++ c = f →
        ∃ u os, runEvents (a.map Event.rxByte) s = some (u, os) ∧
          ∃ os', runEvents (c.map Event.rxByte) u = some (t, os') ∧ os ++ os' = t.outs

/-! ## Transport reports and ticks -/

/-- R162 to R165. -/
def Obligations.TxDoneByPhase : Prop :=
  ∀ (s : State) (ok : Bool) (rest : List Event), s.inputs = .txDone ok :: rest →
    (s.phase = .txBusy → ok = true →
      step s = .next { s with phase := .wait, toCnt := 5000, inputs := rest, outs := [] }) ∧
    (∀ e more, s.phase = .txBusy → ok = false → s.q = e :: more →
      step s = .next (episodeEnds { s with inputs := rest, outs := [] } more
        [.settle e.tag (.err .transportWriteFailed)])) ∧
    (s.phase = .txDrain → s.toCnt = 0 →
      step s = .next (episodeEnds { s with inputs := rest, outs := [] } s.q [])) ∧
    (s.phase = .idle ∨ s.phase = .wait ∨ s.phase = .delay →
      step s = .next { s with inputs := rest, outs := [] })

/-- R172 to R174. -/
def Obligations.TickByPhase : Prop :=
  ∀ (s : State) (rest : List Event), s.inputs = .tick :: rest →
    (s.phase = .wait → 1 < s.toCnt.toNat →
      step s = .next { s with toCnt := BitVec.ofNat 13 (s.toCnt.toNat - 1), inputs := rest, outs := [] }) ∧
    (∀ e more, s.phase = .wait → s.toCnt = 1 → s.q = e :: more →
      step s = .next (episodeEnds { s with inputs := rest, outs := [] } more
        [.settle e.tag (.err .responseTimeout)])) ∧
    (s.phase = .delay → 1 < s.delayCnt.toNat →
      step s = .next { s with delayCnt := BitVec.ofNat 16 (s.delayCnt.toNat - 1), inputs := rest, outs := [] }) ∧
    (∀ e more bs, s.phase = .delay → s.delayCnt = 1 → s.running = true → s.q = e :: more →
      encodeEntry e = some bs →
      step s = .next { s with delayCnt := 0, phase := .txBusy, inputs := rest, outs := [.txFrame bs] }) ∧
    (s.phase = .delay → s.delayCnt = 1 → (s.running = false ∨ s.q = []) →
      step s = .next { s with delayCnt := 0, phase := .idle, inputs := rest, outs := [] }) ∧
    (s.phase = .idle ∨ s.phase = .txBusy ∨ s.phase = .txDrain →
      step s = .next { s with inputs := rest, outs := [] })

/-- R209: in one cycle a completed response beats the tick that would time the request out, and a command sees the tick
that ends a delay. -/
def Obligations.OneCycleOrderFavoursResponseAndCommand : Prop :=
  (∀ (s t : State) (os : List Output) (e : Entry) (rest : List Entry) (h l st b : Byte) (w : Option CmdWord),
    s.running = true → s.phase = .wait → s.toCnt = 1 → s.q = e :: rest → e.kind ≠ .check →
    s.rb ++ [b] = [0xAA, 0x05, 0x4D, h, l, st, checksum [0xAA, 0x05, 0x4D, h, l, st]] →
    runEvents (Cycle.events
      { reset := false, txDone := none, rxByte := some b, tick := true, cmd := w }) s = some (t, os) →
    .settle e.tag .done ∈ os ∧ ¬ .settle e.tag (.err .responseTimeout) ∈ os) ∧
  (∀ (s : State) (chan : BitVec 8) (arg : BitVec 16),
    s.running = true → s.phase = .delay → s.delayCnt = 1 → s.q = [] →
    ∃ t, runEvents (Cycle.events
      { reset := false, txDone := none, rxByte := none, tick := true, cmd := some (cmdWord 0x4A chan arg) }) s =
        some (t, [.accept s.nextTag, .txFrame [0xAA, 0x02, 0x4A, 0x0A]]))

/-! ## Invariants and whole-machine rules -/

/-- R35 at reset. -/
def Obligations.InvariantHoldsAtReset : Prop :=
  StateInv State.reset

/-- R35: every step keeps I1 to I8 and the validity of the entries, from every state that has them. -/
def Obligations.EveryStepKeepsTheInvariant : Prop :=
  ∀ s t : State, StateInv s → step s = .next t → StateInv t

/-- R175: `phase` moves only as the table says. -/
def Obligations.PhaseMovesOnlyAsTheTableSays : Prop :=
  ∀ (e : Event) (s t : State), StateInv s → stepOn e s = .next t → t.phase ∈ phaseTable e s

/-- R214, R26, R27, R37: which steps write `running`, `delay_cfg` and `next_tag`; none writes the parameter. -/
def Obligations.ControlStateIsWrittenOnlyByItsOperations : Prop :=
  ∀ (e : Event) (s t : State), stepOn e s = .next t →
    (s.running = false → t.running = true → ∃ chan arg, e = .cmd (cmdWord 0x01 chan arg)) ∧
    (s.running = true → t.running = false → e = .reset ∨ ∃ chan arg, e = .cmd (cmdWord 0x02 chan arg)) ∧
    (t.delayCfg ≠ s.delayCfg → e = .reset ∨ ∃ chan, e = .cmd (cmdWord 0x03 chan t.delayCfg)) ∧
    (e ≠ .reset → t.nextTag = s.nextTag + BitVec.ofNat 16 (acceptTags t.outs).length) ∧
    t.qdepth = s.qdepth

/-- R84: whatever is sent is a check frame, or an info or send frame for a channel 1 to 15 with a legal action. -/
def Obligations.OnlyLegalFramesAreSent : Prop :=
  ∀ s t : State, StateInv s → step s = .next t → ∀ bs, .txFrame bs ∈ t.outs →
    ∃ i : Instr, encode i = .frame bs ∧ i.dir = .out ∧ i.wellFormed = true

/-- R8, R200: which errors a `Refuse` and which a `Settle` can carry, and the channels of a `StatusUpdate`. -/
def Obligations.OutputsCarryOnlyTheirOwnErrors : Prop :=
  ∀ s t : State, step s = .next t → ∀ o ∈ t.outs,
    (∀ e, o = .refuse e → e ∈ [.invalidChannel, .invalidAction, .dispatcherStopped, .queueFull, .illegalOp]) ∧
    (∀ tag e, o = .settle tag (.err e) → e ∈ [.transportWriteFailed, .responseTimeout, .dispatcherStopped]) ∧
    (∀ c st, o = .statusUpdate c st → 1 ≤ c ∧ c ≤ 15)

/-- R200: the codes 1 to 7 and the classes of the errors. -/
def Obligations.ErrorCodesAndClasses : Prop :=
  [Err.invalidChannel, .invalidAction, .transportWriteFailed, .responseTimeout, .dispatcherStopped, .queueFull,
    .illegalOp].map (fun e => (e.code, e.errClass)) =
  [(1, some .validationError), (2, some .validationError), (3, some .transportError), (4, some .timeoutError),
    (5, some .lifecycleError), (6, none), (7, none)]

/-- R27, R237: tags of requests in the queue at the same time are distinct while it holds at most 65536. -/
def Obligations.QueuedTagsAreDistinct : Prop :=
  ∀ s : State, StateInv s → s.q.length ≤ 65536 → (s.q.map Entry.tag).Nodup

/-! ## Runs -/

/-- R180: every frame sent is either reported or still outstanding, so between two frames a report was taken; and a step
sends at most one frame, ending in TXBUSY with the head in flight. -/
def Obligations.WritesAreSerialised : Prop :=
  (∀ (es : List Event) (s t : State) (os : List Output), .reset ∉ es → runEvents es s = some (t, os) →
    (sentFrames os).length + (writePending s).toNat = (writePending t).toNat + reportsTaken es s) ∧
  (∀ s t : State, StateInv s → step s = .next t → (sentFrames t.outs).length ≤ 1 ∧ (inFlight t).length ≤ 1 ∧
    (sentFrames t.outs ≠ [] → t.phase = .txBusy ∧ (inFlight t).map encodeEntry = (sentFrames t.outs).map some))

/-- R181: settlements come in the order of acceptance, none skipped. -/
def Obligations.SettlementIsFirstInFirstOut : Prop :=
  ∀ (es : List Event) (s t : State) (os : List Output), .reset ∉ es → runEvents es s = some (t, os) →
    s.q.map Entry.tag ++ acceptTags os = settleTags os ++ t.q.map Entry.tag

/-- R182: no tag settles twice within one turn of the tag counter, and none settles that was not accepted. -/
def Obligations.NoTagSettlesTwice : Prop :=
  ∀ (es : List Event) (s t : State) (os : List Output), StateInv s → .reset ∉ es → runEvents es s = some (t, os) →
    s.q.length + (acceptTags os).length ≤ 65536 →
    (settleTags os).Nodup ∧ ∀ tag ∈ settleTags os, tag ∈ s.q.map Entry.tag ++ acceptTags os

/-- R184: from the end of a transmission episode (a launched request settled other than by STOP during its write, or a
drained write reported) no frame is sent before `delay_cfg` ticks. -/
def Obligations.FramesArePaced : Prop :=
  ∀ (e : Event) (s t u : State) (es : List Event) (os : List Output), StateInv s → e ≠ .reset → stepOn e s = .next t →
    (inFlight s ≠ [] ∧ settleTags t.outs ≠ [] ∧ t.phase ≠ .txDrain ∨ s.phase = .txDrain ∧ t.phase ≠ .txDrain) →
    .reset ∉ es → runEvents es t = some (u, os) → tickCount es < s.delayCfg.toNat → sentFrames os = []

/-- R172, R204: a request in WAIT is settled within as many ticks as its timer shows, whatever else happens but Reset. -/
def Obligations.WaitingRequestSettlesWithinItsTimeout : Prop :=
  ∀ (es : List Event) (s t : State) (os : List Output) (e : Entry) (rest : List Entry), StateInv s → s.phase = .wait →
    s.q = e :: rest → .reset ∉ es → s.toCnt.toNat ≤ tickCount es → runEvents es s = some (t, os) →
    e.tag ∈ settleTags os

/-- R183: under ENV-TX and ENV-TICK and without Reset every request in the queue is settled some time. -/
def Obligations.EveryRequestSettlesSomeTime : Prop :=
  ∀ (ev : Nat → Event) (st : Nat → State), IsRun ev st → StateInv (st 0) → (∀ n, ev n ≠ .reset) →
    WritesAreReported ev st → TicksNeverStop ev →
    ∀ n e, e ∈ (st n).q → ∃ m, n ≤ m ∧ e.tag ∈ settleTags (st (m + 1)).outs
end

