-- ==== Sys2Proof/Laws/Codec.lean ====
section
/-! SUPPORT. What the codec functions give, one lemma each: checksum, bitmap, frame building and parsing. -/

namespace Sys2Proof.Machine

/-! ## Checksum -/

@[simp] theorem byteSum_nil : byteSum [] = 0 := rfl
@[simp] theorem byteSum_cons (x : Byte) (b : List Byte) : byteSum (x :: b) = x.toNat + byteSum b := by
  simp [byteSum]
@[simp] theorem byteSum_append (a b : List Byte) : byteSum (a ++ b) = byteSum a + byteSum b := by
  simp [byteSum]

theorem checksum_toNat (bs : List Byte) : (checksum bs).toNat = (256 - byteSum bs % 256) % 256 := by
  simp [checksum]

/-- Replacing one byte moves the sum by the difference of the two bytes. -/
theorem byteSum_set (b : List Byte) (j : Nat) (x : Byte) (h : j < b.length) :
    byteSum (b.set j x) + (b.getD j 0).toNat = byteSum b + x.toNat := by
  induction b generalizing j with
  | nil => simp at h
  | cons a b ih =>
    cases j with
    | zero => simp; omega
    | succ j =>
      have := ih j (by simpa using h)
      simp at this ⊢
      omega

/-! ## Bitmaps -/

theorem mem_setBits (v : BitVec 15) (i : Nat) : i ∈ setBits v ↔ i < 15 ∧ v.getLsbD i = true := by
  simp [setBits]

theorem setBits_pairwise (v : BitVec 15) : (setBits v).Pairwise (· < ·) :=
  List.pairwise_lt_range.filter _

theorem getLsbD_bitmap15 (h l : Byte) (i : Nat) :
    (bitmap15 h l).getLsbD i = (decide (i < 15) && (h ++ l).getLsbD i) := by
  simp [bitmap15]

theorem bytesToChannel_eq_succ_iff (h l : Byte) (i : Nat) :
    bytesToChannel h l = i + 1 ↔ setBits (bitmap15 h l) = [i] := by
  unfold bytesToChannel
  split
  · rename_i j hj; simp [hj]
  · rename_i hj
    exact ⟨by simp, fun h => absurd h (hj i)⟩

theorem bytesToChannel_eq_zero_iff (h l : Byte) :
    bytesToChannel h l = 0 ↔ ∀ i, setBits (bitmap15 h l) ≠ [i] := by
  unfold bytesToChannel
  split
  · rename_i j hj; simp [hj]
  · rename_i hj; simpa using hj

theorem bytesToChannel_le (h l : Byte) : bytesToChannel h l ≤ 15 := by
  unfold bytesToChannel
  split
  · rename_i i hi
    have := (mem_setBits (bitmap15 h l) i).1 (by simp [hi])
    omega
  · omega

/-! ## Frames -/

theorem buildFrame_some_iff (c : Byte) (p f : List Byte) :
    buildFrame c p = some f ↔ p.length ≤ 253 ∧
      f = [0xAA, BitVec.ofNat 8 (p.length + 2), c] ++ p
        ++ [checksum ([0xAA, BitVec.ofNat 8 (p.length + 2), c] ++ p)] := by
  unfold buildFrame
  split <;> rename_i h <;> simp only [Config.maxPayload] at h <;> simp [h, Config.header, eq_comm]

theorem buildInfo_of_channel {c : Nat} {h l : Byte} (hc : channelToBytes c = some (h, l)) :
    buildInfo c = some [0xAA, 0x04, 0x4E, h, l, checksum [0xAA, 0x04, 0x4E, h, l]] := by
  simp [buildInfo, hc, buildFrame, Config.maxPayload, Config.header]

theorem buildSend_of_channel {c : Nat} {h l act : Byte} (hc : channelToBytes c = some (h, l)) :
    buildSend c act = some [0xAA, 0x05, 0x4C, h, l, act, checksum [0xAA, 0x05, 0x4C, h, l, act]] := by
  simp [buildSend, hc, buildFrame, Config.maxPayload, Config.header]

theorem parseFrame_notEnough_iff (bs : List Byte) :
    parseFrame bs = .notEnoughData ↔ bs.length < 3 ∨ bs.length < candidateSize bs := by
  unfold parseFrame
  split_ifs with h1 h2
  · simp [h1]
  · simp [h2]
  · simp only [h1, h2, or_self, iff_false]
    unfold judge
    split_ifs <;> simp

/-- A candidate written as header, length, command, payload, checksum, with a matching length byte: what is parsed, and
that bytes behind it do not count. -/
theorem parseFrame_of_length (x y c k : Byte) (p rest : List Byte) (hy : y.toNat = p.length + 2) :
    candidate ([x, y, c] ++ p ++ [k] ++ rest) = [x, y, c] ++ p ++ [k] ∧
      parseFrame ([x, y, c] ++ p ++ [k] ++ rest) =
        (if x ≠ 0xAA then .badHeader
          else if k ≠ checksum ([x, y, c] ++ p) then .checksumMismatch else .frame c p) := by
  have hs : candidateSize ([x, y, c] ++ p ++ [k] ++ rest) = ([x, y, c] ++ p ++ [k]).length := by
    simp [candidateSize, hy]; omega
  have hc : candidate ([x, y, c] ++ p ++ [k] ++ rest) = [x, y, c] ++ p ++ [k] := by
    rw [candidate, hs, List.take_left]
  refine ⟨hc, ?_⟩
  rw [parseFrame, if_neg (by simp), if_neg (by rw [hs]; simp), hc, judge, if_neg (by simp; omega)]
  have h1 : ([x, y, c] ++ p ++ [k]).getLastD 0 = k := by
    rw [List.getLastD_eq_getLast?, List.getLast?_concat]; rfl
  rw [h1, List.dropLast_concat]
  simp [Config.header]

end Sys2Proof.Machine
end

