-- ==== Sys2Proof/Laws/Decode.lean ====
section
/-! SUPPORT. The three fields of a command word, and which rows the inbound decoder gives. -/

namespace Sys2Proof

@[simp] theorem opField_cmdWord (op chan : BitVec 8) (arg : BitVec 16) : opField (cmdWord op chan arg) = op := by
  apply BitVec.eq_of_getLsbD_eq
  intro i hi
  simp only [opField, cmdWord, BitVec.getLsbD_extractLsb', BitVec.getLsbD_append]
  rw [if_neg (by omega), if_neg (by omega), show 24 + i - 16 - 8 = i by omega]
  simp [hi]

@[simp] theorem chanField_cmdWord (op chan : BitVec 8) (arg : BitVec 16) : chanField (cmdWord op chan arg) = chan := by
  apply BitVec.eq_of_getLsbD_eq
  intro i hi
  simp only [chanField, cmdWord, BitVec.getLsbD_extractLsb', BitVec.getLsbD_append]
  rw [if_neg (by omega), if_pos (by omega), show 16 + i - 16 = i by omega]
  simp [hi]

@[simp] theorem argField_cmdWord (op chan : BitVec 8) (arg : BitVec 16) : argField (cmdWord op chan arg) = arg := by
  apply BitVec.eq_of_getLsbD_eq
  intro i hi
  simp only [argField, cmdWord, BitVec.getLsbD_extractLsb', BitVec.getLsbD_append]
  rw [if_pos (by omega)]
  simp [hi]

/-- A command word is its three fields. -/
theorem cmdWord_fields (w : CmdWord) : cmdWord (opField w) (chanField w) (argField w) = w := by
  unfold cmdWord opField chanField argField
  apply BitVec.eq_of_getLsbD_eq
  intro i hi
  simp only [BitVec.getLsbD_append, BitVec.getLsbD_extractLsb']
  by_cases h1 : i < 16
  · simp [h1]
  · by_cases h2 : i - 16 < 8
    · simp [h1, h2]; congr 1; omega
    · simp [h1, h2, show i - 16 - 8 < 8 by omega]; congr 1; omega

theorem decodeInbound_dir {bs : List Byte} {i : Instr} (h : decodeInbound bs = .ok i) : i.dir = .inbound := by
  unfold decodeInbound at h
  split at h <;> cases h <;> rfl

end Sys2Proof
end

