-- ==== Sys2Proof/Laws/State.lean ====
section
/-! SUPPORT. One lemma per field for each named update of State. -/

namespace Sys2Proof.Machine

@[simp] theorem emit_running (s : State) (o : Output) : (s.emit o).running = s.running := rfl
@[simp] theorem emit_phase (s : State) (o : Output) : (s.emit o).phase = s.phase := rfl
@[simp] theorem emit_toCnt (s : State) (o : Output) : (s.emit o).toCnt = s.toCnt := rfl
@[simp] theorem emit_delayCnt (s : State) (o : Output) : (s.emit o).delayCnt = s.delayCnt := rfl
@[simp] theorem emit_delayCfg (s : State) (o : Output) : (s.emit o).delayCfg = s.delayCfg := rfl
@[simp] theorem emit_nextTag (s : State) (o : Output) : (s.emit o).nextTag = s.nextTag := rfl
@[simp] theorem emit_q (s : State) (o : Output) : (s.emit o).q = s.q := rfl
@[simp] theorem emit_rb (s : State) (o : Output) : (s.emit o).rb = s.rb := rfl
@[simp] theorem emit_qdepth (s : State) (o : Output) : (s.emit o).qdepth = s.qdepth := rfl
@[simp] theorem emit_inputs (s : State) (o : Output) : (s.emit o).inputs = s.inputs := rfl
@[simp] theorem emit_outs (s : State) (o : Output) : (s.emit o).outs = s.outs ++ [o] := rfl

@[simp] theorem refuse_running (e : Err) (s : State) : (refuse e s).running = s.running := rfl
@[simp] theorem refuse_phase (e : Err) (s : State) : (refuse e s).phase = s.phase := rfl
@[simp] theorem refuse_toCnt (e : Err) (s : State) : (refuse e s).toCnt = s.toCnt := rfl
@[simp] theorem refuse_delayCnt (e : Err) (s : State) : (refuse e s).delayCnt = s.delayCnt := rfl
@[simp] theorem refuse_delayCfg (e : Err) (s : State) : (refuse e s).delayCfg = s.delayCfg := rfl
@[simp] theorem refuse_nextTag (e : Err) (s : State) : (refuse e s).nextTag = s.nextTag := rfl
@[simp] theorem refuse_q (e : Err) (s : State) : (refuse e s).q = s.q := rfl
@[simp] theorem refuse_rb (e : Err) (s : State) : (refuse e s).rb = s.rb := rfl
@[simp] theorem refuse_qdepth (e : Err) (s : State) : (refuse e s).qdepth = s.qdepth := rfl
@[simp] theorem refuse_inputs (e : Err) (s : State) : (refuse e s).inputs = s.inputs := rfl
@[simp] theorem refuse_outs (e : Err) (s : State) : (refuse e s).outs = s.outs ++ [.refuse e] := rfl

@[simp] theorem transmit_running (bs : List Byte) (s : State) : (transmit bs s).running = s.running := rfl
@[simp] theorem transmit_phase (bs : List Byte) (s : State) : (transmit bs s).phase = .txBusy := rfl
@[simp] theorem transmit_toCnt (bs : List Byte) (s : State) : (transmit bs s).toCnt = s.toCnt := rfl
@[simp] theorem transmit_delayCnt (bs : List Byte) (s : State) : (transmit bs s).delayCnt = s.delayCnt := rfl
@[simp] theorem transmit_delayCfg (bs : List Byte) (s : State) : (transmit bs s).delayCfg = s.delayCfg := rfl
@[simp] theorem transmit_nextTag (bs : List Byte) (s : State) : (transmit bs s).nextTag = s.nextTag := rfl
@[simp] theorem transmit_q (bs : List Byte) (s : State) : (transmit bs s).q = s.q := rfl
@[simp] theorem transmit_rb (bs : List Byte) (s : State) : (transmit bs s).rb = s.rb := rfl
@[simp] theorem transmit_qdepth (bs : List Byte) (s : State) : (transmit bs s).qdepth = s.qdepth := rfl
@[simp] theorem transmit_inputs (bs : List Byte) (s : State) : (transmit bs s).inputs = s.inputs := rfl
@[simp] theorem transmit_outs (bs : List Byte) (s : State) :
    (transmit bs s).outs = s.outs ++ [.txFrame bs] := rfl

@[simp] theorem rejectAll_running (s : State) : (rejectAll s).running = s.running := rfl
@[simp] theorem rejectAll_phase (s : State) : (rejectAll s).phase = s.phase := rfl
@[simp] theorem rejectAll_toCnt (s : State) : (rejectAll s).toCnt = s.toCnt := rfl
@[simp] theorem rejectAll_delayCnt (s : State) : (rejectAll s).delayCnt = s.delayCnt := rfl
@[simp] theorem rejectAll_delayCfg (s : State) : (rejectAll s).delayCfg = s.delayCfg := rfl
@[simp] theorem rejectAll_nextTag (s : State) : (rejectAll s).nextTag = s.nextTag := rfl
@[simp] theorem rejectAll_q (s : State) : (rejectAll s).q = [] := rfl
@[simp] theorem rejectAll_rb (s : State) : (rejectAll s).rb = s.rb := rfl
@[simp] theorem rejectAll_qdepth (s : State) : (rejectAll s).qdepth = s.qdepth := rfl
@[simp] theorem rejectAll_inputs (s : State) : (rejectAll s).inputs = s.inputs := rfl
@[simp] theorem rejectAll_outs (s : State) :
    (rejectAll s).outs = s.outs ++ s.q.map fun e => Output.settle e.tag (.err .dispatcherStopped) := rfl

end Sys2Proof.Machine
end

