-- ==== Sys2Proof/Laws/Ops.lean ====
section
/-! SUPPORT. For each shared procedure, one lemma that says everything it can do, and the fields it leaves alone. -/

namespace Sys2Proof.Machine

/-! ## Launch -/

theorem launchFrame_some_iff (s : State) (bs : List Byte) :
    launchFrame s = some bs ↔
      s.running = true ∧ s.phase = .idle ∧ ∃ e rest, s.q = e :: rest ∧ encodeEntry e = some bs := by
  cases hq : s.q <;> simp [launchFrame, hq, and_assoc]

@[simp] theorem launchFrame_stopped {s : State} (h : s.running = false) : launchFrame s = none := by
  simp [launchFrame, h]

@[simp] theorem launchFrame_empty {s : State} (h : s.q = []) : launchFrame s = none := by
  simp [launchFrame, h]

theorem launchFrame_phase {s : State} (h : s.phase ≠ .idle) : launchFrame s = none := by
  simp [launchFrame, h]

theorem tryLaunch_cases (s : State) :
    (launchFrame s = none ∧ tryLaunch s = s) ∨
      ∃ bs, launchFrame s = some bs ∧ tryLaunch s = transmit bs s := by
  unfold tryLaunch; cases h : launchFrame s with
  | none => exact .inl ⟨rfl, rfl⟩
  | some bs => exact .inr ⟨bs, rfl, rfl⟩

theorem tryLaunch_of_none {s : State} (h : launchFrame s = none) : tryLaunch s = s := by
  simp [tryLaunch, h]

theorem tryLaunch_of_some {s : State} {bs : List Byte} (h : launchFrame s = some bs) :
    tryLaunch s = transmit bs s := by
  simp [tryLaunch, h]

theorem launchExactly_eq_tryLaunch {s : State} {bs : List Byte} (h : launchFrame s = some bs) :
    launchExactly bs s = tryLaunch s := by
  simp [launchExactly, tryLaunch, h]

@[simp] theorem tryLaunch_running (s : State) : (tryLaunch s).running = s.running := by
  unfold tryLaunch; split <;> rfl
@[simp] theorem tryLaunch_toCnt (s : State) : (tryLaunch s).toCnt = s.toCnt := by
  unfold tryLaunch; split <;> rfl
@[simp] theorem tryLaunch_delayCnt (s : State) : (tryLaunch s).delayCnt = s.delayCnt := by
  unfold tryLaunch; split <;> rfl
@[simp] theorem tryLaunch_delayCfg (s : State) : (tryLaunch s).delayCfg = s.delayCfg := by
  unfold tryLaunch; split <;> rfl
@[simp] theorem tryLaunch_nextTag (s : State) : (tryLaunch s).nextTag = s.nextTag := by
  unfold tryLaunch; split <;> rfl
@[simp] theorem tryLaunch_q (s : State) : (tryLaunch s).q = s.q := by
  unfold tryLaunch; split <;> rfl
@[simp] theorem tryLaunch_rb (s : State) : (tryLaunch s).rb = s.rb := by
  unfold tryLaunch; split <;> rfl
@[simp] theorem tryLaunch_qdepth (s : State) : (tryLaunch s).qdepth = s.qdepth := by
  unfold tryLaunch; split <;> rfl
@[simp] theorem tryLaunch_inputs (s : State) : (tryLaunch s).inputs = s.inputs := by
  unfold tryLaunch; split <;> rfl

/-! ## Delay and settlement -/

theorem enterDelay_cases (s : State) :
    (s.delayCfg = 0 ∧ enterDelay s = tryLaunch { s with delayCnt := 0, phase := .idle }) ∨
      (s.delayCfg ≠ 0 ∧ enterDelay s = { s with delayCnt := s.delayCfg, phase := .delay }) := by
  unfold enterDelay
  split
  · exact .inl ⟨‹_›, rfl⟩
  · exact .inr ⟨‹_›, rfl⟩

@[simp] theorem enterDelay_running (s : State) : (enterDelay s).running = s.running := by
  unfold enterDelay; split <;> simp
@[simp] theorem enterDelay_toCnt (s : State) : (enterDelay s).toCnt = s.toCnt := by
  unfold enterDelay; split <;> simp
@[simp] theorem enterDelay_delayCnt (s : State) : (enterDelay s).delayCnt = s.delayCfg := by
  unfold enterDelay; split <;> simp_all
@[simp] theorem enterDelay_delayCfg (s : State) : (enterDelay s).delayCfg = s.delayCfg := by
  unfold enterDelay; split <;> simp
@[simp] theorem enterDelay_nextTag (s : State) : (enterDelay s).nextTag = s.nextTag := by
  unfold enterDelay; split <;> simp
@[simp] theorem enterDelay_q (s : State) : (enterDelay s).q = s.q := by
  unfold enterDelay; split <;> simp
@[simp] theorem enterDelay_rb (s : State) : (enterDelay s).rb = s.rb := by
  unfold enterDelay; split <;> simp
@[simp] theorem enterDelay_qdepth (s : State) : (enterDelay s).qdepth = s.qdepth := by
  unfold enterDelay; split <;> simp
@[simp] theorem enterDelay_inputs (s : State) : (enterDelay s).inputs = s.inputs := by
  unfold enterDelay; split <;> simp

theorem settleHead_cases (o : Settlement) (s : State) :
    (s.q = [] ∧ settleHead o s = enterDelay { s with toCnt := 0 }) ∨
      ∃ e rest, s.q = e :: rest ∧
        settleHead o s = enterDelay (State.emit { s with q := rest, toCnt := 0 } (.settle e.tag o)) := by
  unfold settleHead
  split
  · exact .inl ⟨‹_›, rfl⟩
  · exact .inr ⟨_, _, ‹_›, rfl⟩

@[simp] theorem settleHead_running (o : Settlement) (s : State) : (settleHead o s).running = s.running := by
  unfold settleHead; split <;> simp
@[simp] theorem settleHead_toCnt (o : Settlement) (s : State) : (settleHead o s).toCnt = 0 := by
  unfold settleHead; split <;> simp
@[simp] theorem settleHead_delayCnt (o : Settlement) (s : State) : (settleHead o s).delayCnt = s.delayCfg := by
  unfold settleHead; split <;> simp
@[simp] theorem settleHead_delayCfg (o : Settlement) (s : State) : (settleHead o s).delayCfg = s.delayCfg := by
  unfold settleHead; split <;> simp
@[simp] theorem settleHead_nextTag (o : Settlement) (s : State) : (settleHead o s).nextTag = s.nextTag := by
  unfold settleHead; split <;> simp
@[simp] theorem settleHead_q (o : Settlement) (s : State) : (settleHead o s).q = s.q.tail := by
  unfold settleHead; split <;> simp_all
@[simp] theorem settleHead_rb (o : Settlement) (s : State) : (settleHead o s).rb = s.rb := by
  unfold settleHead; split <;> simp
@[simp] theorem settleHead_qdepth (o : Settlement) (s : State) : (settleHead o s).qdepth = s.qdepth := by
  unfold settleHead; split <;> simp
@[simp] theorem settleHead_inputs (o : Settlement) (s : State) : (settleHead o s).inputs = s.inputs := by
  unfold settleHead; split <;> simp

/-! ## Requests -/

theorem queueFull_iff (d : Config.QDepth) (n : Nat) : queueFull d n = true ↔ d.capacity = some n := by
  cases d with
  | unbounded => cases n <;> simp [queueFull, Config.QDepth.capacity]
  | bounded m =>
    cases n with
    | zero => simp [queueFull, Config.QDepth.capacity]
    | succ n =>
      simp only [queueFull, Config.QDepth.capacity, beq_iff_eq, Option.some.injEq, Nat.add_right_cancel_iff]
      exact eq_comm

theorem admitRequest_cases (kind : Kind) (chan : BitVec 4) (act : Byte) (s : State) :
    (s.running = false ∧ admitRequest kind chan act s = refuse .dispatcherStopped s) ∨
      (s.running = true ∧ s.qdepth.capacity = some s.q.length ∧ admitRequest kind chan act s = refuse .queueFull s) ∨
      (s.running = true ∧ s.qdepth.capacity ≠ some s.q.length ∧
        admitRequest kind chan act s = enqueue kind chan act s) := by
  unfold admitRequest
  split
  · exact .inl ⟨‹_›, rfl⟩
  · rename_i h
    have h : s.running = true := by simpa using h
    split
    · exact .inr (.inl ⟨h, (queueFull_iff _ _).1 ‹_›, rfl⟩)
    · rename_i h2
      exact .inr (.inr ⟨h, fun h3 => h2 ((queueFull_iff _ _).2 h3), rfl⟩)

/-! ## Responses -/

theorem confirmMatches_iff (s : State) :
    confirmMatches s = true ↔ s.phase = .wait ∧ ∃ e rest, s.q = e :: rest ∧ e.kind = .check := by
  cases hq : s.q <;> simp [confirmMatches, hq]

theorem ackMatches_iff (s : State) :
    ackMatches s = true ↔
      s.phase = .wait ∧ ∃ e rest, s.q = e :: rest ∧ (e.kind = .info ∨ e.kind = .send) := by
  cases hq : s.q <;> simp [ackMatches, hq]

theorem deliverConfirm_cases (h l : Byte) (s : State) :
    (confirmMatches s = false ∧ deliverConfirm h l s = s) ∨
      (confirmMatches s = true ∧ deliverConfirm h l s = settleHead (.channels (bitmap15 h l)) s) := by
  cases hm : confirmMatches s <;> simp [deliverConfirm, hm]

theorem pushStatus_cases (h l st : Byte) (s : State) :
    (bytesToChannel h l = 0 ∧ pushStatus h l st s = s) ∨
      (bytesToChannel h l ≠ 0 ∧ pushStatus h l st s = s.emit (.statusUpdate (bytesToChannel h l) st)) := by
  by_cases hc : bytesToChannel h l = 0 <;> simp [pushStatus, hc]

theorem deliverAck_cases (h l st : Byte) (s : State) :
    (ackMatches s = false ∧ deliverAck h l st s = pushStatus h l st s) ∨
      (ackMatches s = true ∧ deliverAck h l st s = settleHead .done (pushStatus h l st s)) := by
  cases hm : ackMatches s <;> simp [deliverAck, hm]

end Sys2Proof.Machine
end

