-- ==== Sys2Proof/Laws/PerInstr.lean ====
section
/-! SUPPORT. A statement about every instruction as syntax: its encoding has the form its direction demands. -/

namespace Sys2Proof.Laws.RowMatch

/-- A host operation encodes as a word with one of the seven operation codes (R80, R81); a wire frame as header, a
length byte that is the number of bytes less two, and one of the five assigned command bytes (R70, R71, R73). -/
def Statement (i : Instr) : Prop :=
  match encode i with
  | .word w => i.dir = .host ∧ opField w ∈ [0x00#8, 0x01#8, 0x02#8, 0x03#8, 0x4A#8, 0x4C#8, 0x4E#8]
  | .frame bs => i.dir ≠ .host ∧ bs.getD 0 0 = 0xAA ∧ (bs.getD 1 0).toNat + 2 = bs.length ∧
      bs.getD 2 0 ∈ [0x4A#8, 0x4E#8, 0x4C#8, 0x4B#8, 0x4D#8]

theorem easyCheck : Statement .easyCheck := by simp [Statement, encode, Instr.dir]
theorem easyInfo (h l k : Byte) : Statement (.easyInfo h l k) := by simp [Statement, encode, Instr.dir]
theorem easySend (h l a k : Byte) : Statement (.easySend h l a k) := by simp [Statement, encode, Instr.dir]
theorem easyConfirm (h l k : Byte) : Statement (.easyConfirm h l k) := by simp [Statement, encode, Instr.dir]
theorem easyAck (h l st k : Byte) : Statement (.easyAck h l st k) := by simp [Statement, encode, Instr.dir]
theorem nop (c : BitVec 8) (a : BitVec 16) : Statement (.nop c a) := by simp [Statement, encode, Instr.dir]
theorem start (c : BitVec 8) (a : BitVec 16) : Statement (.start c a) := by simp [Statement, encode, Instr.dir]
theorem stop (c : BitVec 8) (a : BitVec 16) : Statement (.stop c a) := by simp [Statement, encode, Instr.dir]
theorem setDelay (c : BitVec 8) (a : BitVec 16) : Statement (.setDelay c a) := by simp [Statement, encode, Instr.dir]
theorem check (c : BitVec 8) (a : BitVec 16) : Statement (.check c a) := by simp [Statement, encode, Instr.dir]
theorem send (c : BitVec 8) (a : BitVec 16) : Statement (.send c a) := by simp [Statement, encode, Instr.dir]
theorem info (c : BitVec 8) (a : BitVec 16) : Statement (.info c a) := by simp [Statement, encode, Instr.dir]

end Sys2Proof.Laws.RowMatch
end

