-- ==== Sys2Proof/Laws/Step.lean ====
section
/-! SUPPORT. How a step and a run unfold, that every part of a step answers a next state, and the shared procedures as
`episodeEnds` and `statusOutputs` say them. -/

namespace Sys2Proof.Machine

/-! ## Steps and runs -/

theorem step_of_inputs {s : State} {e : Event} {rest : List Event} (h : s.inputs = e :: rest) :
    step s = react e { s with inputs := rest, outs := [] } := by
  simp only [step, h]

theorem stepOn_eq_react (e : Event) (s : State) : stepOn e s = react e { s with inputs := [], outs := [] } := rfl

theorem runEvents_cons {e : Event} {es : List Event} {s t : State} {os : List Output}
    (h : runEvents (e :: es) s = some (t, os)) :
    ∃ u os', stepOn e s = .next u ∧ runEvents es u = some (t, os') ∧ os = u.outs ++ os' := by
  unfold runEvents at h
  split at h
  · rename_i u hu
    simp only [Option.map_eq_some_iff] at h
    obtain ⟨⟨t', os'⟩, h1, h2⟩ := h
    simp at h2
    exact ⟨u, os', hu, by rw [h1, h2.1], h2.2.symm⟩
  · cases h
  · cases h

theorem exec_next (i : Instr) (s : State) : ∃ t, exec i s = .next t := by
  cases i <;> exact ⟨_, rfl⟩

theorem deliver_next (c : List Byte) (s : State) : ∃ t, deliver c s = .next t := by
  unfold deliver
  split
  · exact exec_next _ _
  · exact ⟨_, rfl⟩

/-- The loop of R121 ends where no candidate is complete. -/
theorem drain_of_notEnough (n : Nat) (s : State) (h : parseFrame s.rb = .notEnoughData) : drain n s = .next s := by
  cases n with
  | zero => rfl
  | succ n => unfold drain; rw [h]

/-! ## Shared procedures -/

@[simp] theorem acceptTags_append (a b : List Output) : acceptTags (a ++ b) = acceptTags a ++ acceptTags b := by
  simp [acceptTags]
@[simp] theorem settleTags_append (a b : List Output) : settleTags (a ++ b) = settleTags a ++ settleTags b := by
  simp [settleTags]
@[simp] theorem sentFrames_append (a b : List Output) : sentFrames (a ++ b) = sentFrames a ++ sentFrames b := by
  simp [sentFrames]

/-- A launch writes `phase` and appends to the outputs, and then only the frame of the head. -/
theorem tryLaunch_outs (s : State) :
    ∃ tx, tryLaunch s = { s with phase := (tryLaunch s).phase, outs := s.outs ++ tx } ∧
      ((tx = [] ∧ (tryLaunch s).phase = s.phase) ∨
        ∃ bs e rest, tx = [.txFrame bs] ∧ (tryLaunch s).phase = .txBusy ∧ s.running = true ∧ s.phase = .idle ∧
          s.q = e :: rest ∧ encodeEntry e = some bs) := by
  rcases tryLaunch_cases s with ⟨_, h2⟩ | ⟨bs, h1, h2⟩ <;> rw [h2]
  · exact ⟨[], by rw [List.append_nil], .inl ⟨rfl, rfl⟩⟩
  · obtain ⟨a, b, e, r, c, d⟩ := (launchFrame_some_iff s bs).1 h1
    exact ⟨_, rfl, .inr ⟨bs, e, r, rfl, rfl, a, b, c, d⟩⟩

/-- Starting the delay is the end of an episode (R167). -/
theorem enterDelay_eq_episodeEnds (s : State) (rest : List Entry) (os : List Output) (h0 : s.toCnt = 0) :
    enterDelay { s with q := rest, outs := s.outs ++ os } = episodeEnds s rest os := by
  unfold enterDelay episodeEnds
  by_cases h : s.delayCfg = 0
  · rw [if_pos h, if_neg (by simp [h])]
    unfold tryLaunch launchFrame
    cases s.running
    · simp [h0]
    · cases rest with
      | nil => simp [h0]
      | cons e r => cases he : encodeEntry e <;> simp [transmit, State.emit, h0, he]
  · rw [if_neg (by simpa using h), if_pos (by simpa using h)]
    simp [h0]

/-- Settling the head is the end of an episode with one `Settle` (R166). -/
theorem settleHead_eq_episodeEnds {s : State} {e : Entry} {rest : List Entry} (o : Settlement) (hq : s.q = e :: rest) :
    settleHead o s = episodeEnds s rest [.settle e.tag o] := by
  unfold settleHead
  rw [hq]
  exact enterDelay_eq_episodeEnds { s with toCnt := 0 } rest [.settle e.tag o] rfl

theorem pushStatus_eq_statusOutputs (h l st : Byte) (s : State) :
    pushStatus h l st s = { s with outs := s.outs ++ statusOutputs h l st } := by
  unfold pushStatus statusOutputs
  split <;> simp [State.emit]

/-- Outputs of the same step that come before the end of an episode. -/
theorem episodeEnds_outs_append (s : State) (rest : List Entry) (a b : List Output) :
    episodeEnds { s with outs := s.outs ++ a } rest b = episodeEnds s rest (a ++ b) := by
  unfold episodeEnds
  split
  · simp
  · simp only
    cases (if s.running = true then rest.head?.bind encodeEntry else none) <;> simp

/-! ## Tags -/

theorem tagsBefore_succ (t : Tag) (n : Nat) : tagsBefore (t + 1) (n + 1) = tagsBefore t n ++ [t] := by
  unfold tagsBefore
  rw [List.range_succ, List.map_append]
  congr 1
  · apply List.map_congr_left
    intro i hi
    have : i < n := by simpa using hi
    apply BitVec.eq_of_toNat_eq
    rw [show n + 1 - i = (n - i) + 1 by omega]
    simp [BitVec.toNat_sub, BitVec.toNat_add]
    have := t.isLt
    omega
  · simp

theorem tagsBefore_tail (t : Tag) (n : Nat) : (tagsBefore t n).tail = tagsBefore t (n - 1) := by
  cases n with
  | zero => rfl
  | succ n => unfold tagsBefore; rw [List.range_succ_eq_map]; simp

end Sys2Proof.Machine
end

