-- ==== Sys2Proof/Tests/Slice0.lean ====
section
/-! SUPPORT. Tests: ill-formed terms refused, words written out from the encodings, the spec's worked examples, and one
witness of the hypotheses of every statement that has some. -/

namespace Sys2Proof.Tests

open Machine

/-! ## States for the tests -/

/-- A running EFD with a queue of 16 entries, in IDLE. -/
def base : State := { State.reset with running := true, qdepth := .bounded 15 }

def checkEntry (tag : Tag) : Entry := { kind := .check, chan := 0, act := 0, tag := tag }
def infoEntry (tag : Tag) : Entry := { kind := .info, chan := 5, act := 0, tag := tag }
def sendEntry (tag : Tag) : Entry := { kind := .send, chan := 3, act := 0x20, tag := tag }

/-- `base` with one request of tag 0 in the queue. -/
def one (e : Entry) : State := { base with q := [e], nextTag := 1 }

/-- One request at the transport. -/
def busy (e : Entry) : State := { one e with phase := .txBusy }

/-- One request in WAIT with `n` ticks left. -/
def waiting (e : Entry) (n : BitVec 13) : State := { one e with phase := .wait, toCnt := n }

/-- One request behind a delay with `n` ticks left. -/
def delayed (e : Entry) (n : BitVec 16) : State := { one e with phase := .delay, delayCnt := n }

/-- A write outstanding after STOP. -/
def draining : State := { base with running := false, phase := .txDrain }

/-- `s` with one event pending. -/
def given (s : State) (e : Event) : State := { s with inputs := [e] }

def outsOf : Result → List Output
  | .next t => t.outs
  | .fault _ => []
  | .refused _ => []

/-- The result is a next state with this property. -/
def gives (r : Result) (p : State → Bool) : Bool :=
  match r with
  | .next t => p t
  | .fault _ => false
  | .refused _ => false

/-! ## Well-formedness: one ill-formed term for each check -/

theorem test_wf_info_two_bits : Instr.wellFormed (.easyInfo 0x00 0x03 (checksum [0xAA, 0x04, 0x4E, 0x00, 0x03])) = false := by
  decide
theorem test_wf_info_bit15 : Instr.wellFormed (.easyInfo 0x80 0x01 (checksum [0xAA, 0x04, 0x4E, 0x80, 0x01])) = false := by
  decide
theorem test_wf_info_checksum : Instr.wellFormed (.easyInfo 0x00 0x01 0x04) = false := by decide
theorem test_wf_info_right : Instr.wellFormed (.easyInfo 0x00 0x01 0x03) = true := by decide
theorem test_wf_send_bitmap : Instr.wellFormed (.easySend 0 0 0x20 (checksum [0xAA, 0x05, 0x4C, 0, 0, 0x20])) = false := by
  decide
theorem test_wf_send_action : Instr.wellFormed (.easySend 0 4 0x30 (checksum [0xAA, 0x05, 0x4C, 0, 4, 0x30])) = false := by
  decide
theorem test_wf_send_checksum : Instr.wellFormed (.easySend 0 4 0x20 0xE0) = false := by decide
theorem test_wf_send_right : Instr.wellFormed (.easySend 0 4 0x20 0xE1) = true := by decide
theorem test_wf_confirm_checksum : Instr.wellFormed (.easyConfirm 0 5 0x03) = false := by decide
theorem test_wf_ack_checksum : Instr.wellFormed (.easyAck 0 1 1 0x03) = false := by decide

/-! ## Decoding: words written out from R79 and R81 -/

/-- Source §8, corrected by C2. -/
theorem test_decode_easyCheck : decode (.frame [0xAA, 0x02, 0x4A, 0x0A]) = .ok .easyCheck := by decide
/-- Source §8. -/
theorem test_decode_easyInfo : decode (.frame [0xAA, 0x04, 0x4E, 0x00, 0x01, 0x03]) = .ok (.easyInfo 0x00 0x01 0x03) := by
  decide
/-- R147. -/
theorem test_decode_easySend :
    decode (.frame [0xAA, 0x05, 0x4C, 0x00, 0x04, 0x20, 0xE1]) = .ok (.easySend 0x00 0x04 0x20 0xE1) := by decide
/-- Source §8. -/
theorem test_decode_easyConfirm :
    decode (.frame [0xAA, 0x04, 0x4B, 0x00, 0x05, 0x02]) = .ok (.easyConfirm 0x00 0x05 0x02) := by decide
/-- Source §8. -/
theorem test_decode_easyAck :
    decode (.frame [0xAA, 0x05, 0x4D, 0x00, 0x01, 0x01, 0x02]) = .ok (.easyAck 0x00 0x01 0x01 0x02) := by decide
theorem test_decode_nop : decode (.word 0b00000000000000000000000000000000) = .ok (.nop 0 0) := by decide
theorem test_decode_start : decode (.word 0b00000001000000000000000000000000) = .ok (.start 0 0) := by decide
theorem test_decode_stop : decode (.word 0b00000010000000000000000000000000) = .ok (.stop 0 0) := by decide
theorem test_decode_setDelay : decode (.word 0b00000011000000000000001111101000) = .ok (.setDelay 0 1000) := by decide
theorem test_decode_check : decode (.word 0b01001010000000000000000000000000) = .ok (.check 0 0) := by decide
theorem test_decode_send : decode (.word 0b01001100000000110000000000100000) = .ok (.send 3 0x0020) := by decide
theorem test_decode_info : decode (.word 0b01001110000000010000000000000000) = .ok (.info 1 0) := by decide
/-- R81: the response command bytes are no operation codes. -/
theorem test_decode_illegal : decode (.word 0x4B000000) = .error .illegalOp := by decide
theorem test_decode_frame_rejects :
    decode (.frame [0xAA, 0x02]) = .error .notEnoughBytes ∧ decode (.frame [0xAB, 0x02, 0x4A, 0x09]) = .error .badHeader ∧
    decode (.frame [0xAA, 0x03, 0x4A, 0x0A]) = .error .badLength ∧
    decode (.frame [0xAA, 0x02, 0x4F, 0x05]) = .error .unassignedCommand ∧
    decode (.frame [0xAA, 0x02, 0x4B, 0x09]) = .error .badPayloadSize ∧
    decode (.frame [0xAA, 0x02, 0x4A, 0x9C]) = .error .badConstant := by decide
/-- V-PAR: an echo of EFD's own frame is no response (R126). -/
theorem test_decode_echo : decodeInbound [0xAA, 0x02, 0x4A, 0x0A] = .error .notInbound := by decide

/-! ## Codec: corner cases of R102 to R112 -/

theorem test_channelToBytes :
    channelToBytes 0 = none ∧ channelToBytes 1 = some (0x00, 0x01) ∧ channelToBytes 8 = some (0x00, 0x80) ∧
    channelToBytes 9 = some (0x01, 0x00) ∧ channelToBytes 15 = some (0x40, 0x00) ∧ channelToBytes 16 = none := by decide
theorem test_bytesToChannel :
    bytesToChannel 0x80 0x01 = 1 ∧ bytesToChannel 0x80 0x00 = 0 ∧ bytesToChannel 0x00 0x03 = 0 ∧
    bytesToChannel 0x01 0x01 = 0 ∧ bytesToChannel 0x40 0x00 = 15 ∧ bytesToChannel 0x01 0x00 = 9 := by decide
theorem test_bitmapToChannels :
    bitmapToChannels 0x00 0x05 = [1, 3] ∧ bitmapToChannels 0x80 0x00 = [] ∧
    bitmapToChannels 0xFF 0xFF = [1, 2, 3, 4, 5, 6, 7, 8, 9, 10, 11, 12, 13, 14, 15] := by decide
/-- R108. -/
theorem test_parseFrame :
    parseFrame [0xAA, 0x00] = .notEnoughData ∧ parseFrame [0xAA, 0x00, 0x07] = .malformedLength ∧
    parseFrame [0xAA, 0x01, 0x55] = .malformedLength ∧ parseFrame [0xAB, 0x02, 0x4A, 0x09] = .badHeader ∧
    parseFrame [0xAA, 0x04, 0x4B, 0x00, 0x05, 0x03] = .checksumMismatch ∧
    parseFrame [0xAA, 0x05, 0x4D, 0x00, 0x01, 0x01, 0x02] = .frame 0x4D [0x00, 0x01, 0x01] := by decide
/-- D26. -/
theorem test_statusSem : statusSem .drive 0x01 = .topPosition := by decide
/-- R85, R86. -/
theorem test_line_send : (Line.send 3 Action.top.byte).events = [.cmd 0x4C030020] := by decide
/-- R209: Reset alone, else TxDone, RxByte, Tick, Cmd. -/
theorem test_cycle_order :
    Cycle.events { reset := true, txDone := some true, rxByte := none, tick := true, cmd := none } = [.reset] ∧
    Cycle.events { reset := false, txDone := some false, rxByte := some 7, tick := true, cmd := some 0 } =
      [.txDone false, .rxByte 7, .tick, .cmd 0] := by decide
/-- The widths and suggested encodings of R23, R28; the order of the fields is the model's (assumption log 19). -/
theorem test_entry_bits : Entry.bits (infoEntry 9) = 0b010101000000000000000000001001#30 ∧ Phase.code .txDrain = 4 := by
  decide

/-! ## Instructions: the worked examples of their rules, one step each -/

theorem test_nop : gives (exec (.nop 7 9) base) (· == { base with outs := [.cmdOk] }) := by decide
theorem test_start :
    gives (exec (.start 0 0) { base with running := false }) (· == { base with outs := [.cmdOk] }) := by decide
/-- R192. -/
theorem test_stop_wait :
    gives (exec (.stop 0 0) { waiting (infoEntry 0) 4200 with q := [infoEntry 0, sendEntry 1], rb := [0xAA, 0x05] })
      (· == { base with
        running := false, phase := .delay, delayCnt := 500, nextTag := 1,
        outs := [.cmdOk, .settle 0 (.err .dispatcherStopped), .settle 1 (.err .dispatcherStopped)] }) := by decide
theorem test_stop_busy : gives (exec (.stop 0 0) (busy (infoEntry 0))) (fun t => t.phase == .txDrain && t.delayCnt == 0) := by
  decide
/-- R193. -/
theorem test_setDelay :
    gives (exec (.setDelay 0 0x03E8) base) (· == { base with delayCfg := 1000, outs := [.cmdOk] }) := by decide
/-- R141. -/
theorem test_check : gives (exec (.check 0 0) base)
    (· == { busy (checkEntry 0) with outs := [.accept 0, .txFrame [0xAA, 0x02, 0x4A, 0x0A]] }) := by decide
/-- R142. -/
theorem test_info : outsOf (exec (.info 1 0) { base with nextTag := 4 }) =
    [.accept 4, .txFrame [0xAA, 0x04, 0x4E, 0x00, 0x01, 0x03]] := by decide
/-- R142: the channel is looked at before the lifecycle. -/
theorem test_info_stopped : outsOf (exec (.info 16 0) State.reset) = [.refuse .invalidChannel] := by decide
/-- R143. -/
theorem test_send : outsOf (exec (.send 3 0x0020) base) =
    [.accept 0, .txFrame [0xAA, 0x05, 0x4C, 0x00, 0x04, 0x20, 0xE1]] := by decide
/-- R143: with both bad the answer is the channel's. -/
theorem test_send_both_bad : outsOf (exec (.send 0 0x0030) base) = [.refuse .invalidChannel] := by decide
theorem test_easyCheck : outsOf (exec .easyCheck (one (checkEntry 0))) = [.txFrame [0xAA, 0x02, 0x4A, 0x0A]] := by decide
/-- V-BLD-2, channel 5, and the frame of another channel. -/
theorem test_easyInfo :
    outsOf (exec (.easyInfo 0x00 0x10 0xF4) (one (infoEntry 0))) = [.txFrame [0xAA, 0x04, 0x4E, 0x00, 0x10, 0xF4]] ∧
    gives (exec (.easyInfo 0x00 0x01 0x03) (one (infoEntry 0))) (· == one (infoEntry 0)) = true := by decide
theorem test_easySend : outsOf (exec (.easySend 0x00 0x04 0x20 0xE1) (one (sendEntry 0))) =
    [.txFrame [0xAA, 0x05, 0x4C, 0x00, 0x04, 0x20, 0xE1]] := by decide
/-- R124. -/
theorem test_easyConfirm : outsOf (exec (.easyConfirm 0x00 0x05 0x02) (waiting (checkEntry 0) 9)) =
    [.settle 0 (.channels 0x0005)] := by decide
/-- R124: bit 15 is masked away. -/
theorem test_easyConfirm_bit15 :
    outsOf (exec (.easyConfirm 0x80 0x05 (checksum [0xAA, 0x04, 0x4B, 0x80, 0x05])) (waiting (checkEntry 0) 9)) =
      [.settle 0 (.channels 0x0005)] := by decide
/-- R125: another channel's ack still resolves the head; a bitmap of several channels gives no status push. -/
theorem test_easyAck :
    outsOf (exec (.easyAck 0x00 0x01 0x01 0x02) (waiting (infoEntry 0) 9)) = [.statusUpdate 1 0x01, .settle 0 .done] ∧
    outsOf (exec (.easyAck 0x00 0x03 0x01 (checksum [0xAA, 0x05, 0x4D, 0x00, 0x03, 0x01])) (waiting (infoEntry 0) 9)) =
      [.settle 0 .done] := by decide

/-! ## Events -/

/-- R172. -/
theorem test_timeout : gives (step (given (waiting (infoEntry 0) 1) .tick)) fun t =>
    t.outs == [.settle 0 (.err .responseTimeout)] && t.phase == .delay && t.delayCnt == 500 && t.toCnt == 0 := by decide
/-- R173. -/
theorem test_delay_end : gives (step (given (delayed (checkEntry 0) 1) .tick)) fun t =>
    t.outs == [.txFrame [0xAA, 0x02, 0x4A, 0x0A]] && t.phase == .txBusy && t.delayCnt == 0 := by decide
/-- R121. -/
theorem test_rx_last_byte :
    gives (step (given { base with rb := [0xAA, 0x04, 0x4B, 0x00, 0x05] } (.rxByte 0x02))) fun t =>
      t.rb == [] && t.outs == [] := by decide

/-! ## The instruction of a table row as the first after reset -/

theorem test_fetch_easyCheck : outsOf (step (State.reset.withFetchWord 32 0xAA024A0A)) =
    [.txFrame [0xAA, 0x02, 0x4A, 0x0A]] := by decide
theorem test_fetch_easyInfo : outsOf (step (State.reset.withFetchWord 48 0xAA044E000103)) =
    [.txFrame [0xAA, 0x04, 0x4E, 0x00, 0x01, 0x03]] := by decide
/-- R147, and R84: the frame with the illegal action 0x30 and its right checksum is not sent. -/
theorem test_fetch_easySend :
    outsOf (step (State.reset.withFetchWord 56 0xAA054C000420E1)) =
      [.txFrame [0xAA, 0x05, 0x4C, 0x00, 0x04, 0x20, 0xE1]] ∧
    gives (step (State.reset.withFetchWord 56 0xAA054C000430D1)) (fun t => t.outs == [] && t.q == [] && t.rb == []) = true := by
  decide
theorem test_fetch_easyAck : outsOf (step (State.reset.withFetchWord 56 0xAA054D00010102)) = [.statusUpdate 1 0x01] := by
  decide
theorem test_fetch_setDelay : gives (step (State.reset.withFetchWord 32 0x030003E8)) fun t =>
    t.outs == [.cmdOk] && t.delayCfg == 1000 := by decide
theorem test_fetch_check : outsOf (step (State.reset.withFetchWord 32 0x4A000000)) = [.refuse .dispatcherStopped] := by
  decide

/-! ## Witnesses: a state and operands that meet the hypotheses of each statement, clause by clause -/

theorem witness_ChecksumClosesTheSum :
    (0 < [0x01#8].length ∧ [0x01#8].getD 0 0 ≠ 0x02#8) ∧ byteSum [0x01, 0x02] % 256 = byteSum [0x02, 0x01] % 256 ∧
    [0x01#8, 0x02#8].isPerm [0x02#8, 0x01#8] = true := by decide
theorem witness_BytesToChannelReadsOneBit :
    (∀ j, j < 15 → (0x00#8 ++ 0x01#8).getLsbD j = decide (j = 0)) ∧
    (∀ j, j < 15 → (0x40#8 ++ 0x00#8).getLsbD j = decide (j = 14)) ∧
    ¬ ∃ i, i < 15 ∧ ∀ j, j < 15 → (0x00#8 ++ 0x03#8).getLsbD j = decide (j = i) := by decide
theorem witness_ChannelFunctionsAgree :
    channelToBytes 15 = some (0x40, 0x00) ∧ bytesToChannel 0xC0 0x00 ≠ 0 ∧ channelToBytes 1 = some (0x00, 0x01) := by decide
theorem witness_ParseOfABuiltFrameGivesItBack :
    (List.replicate 253 (0x00 : Byte)).length ≤ 253 ∧ ([] : List Byte).length ≤ 253 :=
  ⟨by rw [List.length_replicate], by decide⟩

/-- The frame of R125's example. -/
def ackFrame : List Byte := [0xAA, 0x05, 0x4D, 0x00, 0x01, 0x01, 0x02]

/-- Header, payload and checksum changed; the length byte changed to 6, 1 and 2. -/
theorem witness_OneCorruptedByteIsJudgedByItsPlace :
    buildFrame 0x4D [0x00, 0x01, 0x01] = some ackFrame ∧ ackFrame.length = 7 ∧ ackFrame.getD 0 0 ≠ 0xAB ∧
    ackFrame.getD 2 0 ≠ 0x4B ∧ ackFrame.getD 6 0 ≠ 0x03 ∧
    (ackFrame.getD 1 0).toNat < (0x06 : Byte).toNat ∧ ackFrame.getD 1 0 ≠ 0x06 ∧
    (0x01 : Byte).toNat < 2 ∧ ackFrame.getD 1 0 ≠ 0x01 ∧
    2 ≤ (0x02 : Byte).toNat ∧ (0x02 : Byte).toNat < (ackFrame.getD 1 0).toNat ∧
    decodeResponse 0x4D [0x00, 0x01, 0x01] ≠ .unrecognised := by decide
theorem witness_EncodeOfDecodeIsTheCode :
    decode (.word 0x4A000000) = .ok (.check 0 0) ∧ decode (.frame ackFrame) = .ok (.easyAck 0 1 1 2) := by
  decide
theorem witness_OperationCodesAreTheSeven :
    opField 0x00FFFFFF = 0x00 ∧ opField 0x01000000 = 0x01 ∧ opField 0x02000000 = 0x02 ∧ opField 0x03000000 = 0x03 ∧
    opField 0x4A000000 = 0x4A ∧ opField 0x4C000000 = 0x4C ∧ opField 0x4EFFFFFF = 0x4E ∧
    opField 0x4B000000 ∉ [0x00#8, 0x01#8, 0x02#8, 0x03#8, 0x4A#8, 0x4C#8, 0x4E#8] := by decide
theorem witness_InboundDecoderAgreesWithDecodeResponse :
    parseFrame [0xAA, 0x04, 0x4B, 0x00, 0x05, 0x02] = .frame 0x4B [0x00, 0x05] ∧
    decodeResponse 0x4B [0x00, 0x05] = .confirm 0x00 0x05 ∧
    parseFrame ackFrame = .frame 0x4D [0x00, 0x01, 0x01] ∧ decodeResponse 0x4D [0x00, 0x01, 0x01] = .ack 0x00 0x01 0x01 ∧
    parseFrame [0xAA, 0x02, 0x4A, 0x0A] = .frame 0x4A [] ∧ decodeResponse 0x4A [] = .unrecognised := by decide
theorem witness_ResetEventClearsEverythingSilently : (given (busy (infoEntry 0)) .reset).inputs = [.reset] := by decide
theorem witness_StepRunsTheDecodedCommand :
    (given base (.cmd 0x4A000000)).inputs = [.cmd 0x4A000000] ∧ decodeWord 0x4A000000 = .ok (.check 0 0) := by decide
theorem witness_StepRunsTheReceivedFrame :
    base.running = true ∧ parseFrame (ackFrame.take 6) = .notEnoughData ∧ Instr.dir (.easyAck 0 1 1 2) = .inbound ∧
    Instr.wellFormed (.easyAck 0 1 1 2) = true ∧ encode (.easyAck 0 1 1 2) = .frame (ackFrame.take 6 ++ [0x02]) := by decide
theorem witness_StepRunsTheLaunchedFrame :
    (delayed (sendEntry 0) 1).running = true ∧ (delayed (sendEntry 0) 1).phase = .delay ∧
    (delayed (sendEntry 0) 1).delayCnt = 1 ∧ (delayed (sendEntry 0) 1).q = [sendEntry 0] ∧
    encodeEntry (sendEntry 0) = some [0xAA, 0x05, 0x4C, 0x00, 0x04, 0x20, 0xE1] ∧
    encode (.easySend 0x00 0x04 0x20 0xE1) = .frame [0xAA, 0x05, 0x4C, 0x00, 0x04, 0x20, 0xE1] := by decide
theorem witness_StartSetsRunningOnly :
    (State.reset.phase = .idle → State.reset.q = []) ∧
    ((delayed (infoEntry 0) 7).phase = .idle → (delayed (infoEntry 0) 7).q = []) := by decide
theorem witness_IllegalOperationIsRefused :
    (given base (.cmd 0x04000000)).inputs = [.cmd 0x04000000] ∧
    opField 0x04000000 ∉ [0x00#8, 0x01#8, 0x02#8, 0x03#8, 0x4A#8, 0x4C#8, 0x4E#8] := by decide
theorem witness_EveryCommandHasOneAnswerFirst : (given base (.cmd 0x02000000)).inputs = [.cmd 0x02000000] := by decide

/-- Channels 0 and 16; a bad action on channels 1 and 15; stopped; a queue of one entry that is full. -/
theorem witness_RequestChecksInOrder :
    ¬ (1 ≤ (0 : BitVec 8).toNat ∧ (0 : BitVec 8).toNat ≤ 15) ∧ ¬ (1 ≤ (16 : BitVec 8).toNat ∧ (16 : BitVec 8).toNat ≤ 15) ∧
    (1 ≤ (1 : BitVec 8).toNat ∧ (15 : BitVec 8).toNat ≤ 15 ∧
      (0xAB30 : BitVec 16).setWidth 8 ∉ [0x10#8, 0x20#8, 0x24#8, 0x40#8, 0x44#8]) ∧
    (0xAB44 : BitVec 16).setWidth 8 ∈ [0x10#8, 0x20#8, 0x24#8, 0x40#8, 0x44#8] ∧
    draining.running = false ∧
    ({ busy (infoEntry 0) with qdepth := .bounded 0 } : State).qdepth.capacity = some (busy (infoEntry 0)).q.length := by
  decide

/-- Both cases of the three request statements: IDLE with an empty queue, and behind another request. -/
theorem witness_RequestsAccepted :
    base.running = true ∧ base.qdepth.capacity ≠ some base.q.length ∧ (base.phase = .idle → base.q = []) ∧
    (busy (infoEntry 0)).running = true ∧ (busy (infoEntry 0)).qdepth.capacity ≠ some (busy (infoEntry 0)).q.length ∧
    ((busy (infoEntry 0)).phase = .idle → (busy (infoEntry 0)).q = []) ∧
    channelToBytes (1 : BitVec 8).toNat = some (0x00, 0x01) ∧ channelToBytes (15 : BitVec 8).toNat = some (0x40, 0x00) ∧
    (0xAB10 : BitVec 16).setWidth 8 = 0x10#8 ∧ 0x10#8 ∈ [0x10#8, 0x20#8, 0x24#8, 0x40#8, 0x44#8] := by decide

/-- The three statements on the frames EFD sends. -/
theorem witness_FramesSent :
    (one (checkEntry 0)).running = true ∧ (one (checkEntry 0)).phase = .idle ∧ (one (checkEntry 0)).q = [checkEntry 0] ∧
    (checkEntry 0).kind = .check ∧ (one (infoEntry 0)).q = [infoEntry 0] ∧ (infoEntry 0).kind = .info ∧
    channelToBytes (infoEntry 0).chan.toNat = some (0x00, 0x10) ∧ (one (sendEntry 0)).q = [sendEntry 0] ∧
    (sendEntry 0).kind = .send ∧ channelToBytes (sendEntry 0).chan.toNat = some (0x00, 0x04) := by decide
theorem witness_NoOtherFrameIsSent :
    Instr.dir .easyCheck = .out ∧ encode .easyCheck = .frame [0xAA, 0x02, 0x4A, 0x0A] ∧
    ¬ (base.running = true ∧ base.phase = .idle ∧ ∃ e rest, base.q = e :: rest ∧
      encodeEntry e = some [0xAA, 0x02, 0x4A, 0x0A]) := by
  refine ⟨rfl, rfl, ?_⟩
  rintro ⟨_, _, e, rest, h, _⟩
  cases h

/-- A match; no WAIT; no request; the other kind at the head. -/
theorem witness_EasyConfirmSettlesAWaitingCheck :
    (waiting (checkEntry 0) 9).running = true ∧ (waiting (checkEntry 0) 9).phase = .wait ∧
    (waiting (checkEntry 0) 9).q = [checkEntry 0] ∧ (checkEntry 0).kind = .check ∧
    (busy (checkEntry 0)).phase ≠ .wait ∧ base.q = [] ∧ (waiting (infoEntry 0) 9).q = [infoEntry 0] ∧
    (infoEntry 0).kind ≠ .check := by decide
theorem witness_EasyAckPushesStatusAndSettles :
    (waiting (infoEntry 0) 9).running = true ∧ (waiting (infoEntry 0) 9).phase = .wait ∧
    (waiting (infoEntry 0) 9).q = [infoEntry 0] ∧ (infoEntry 0).kind ≠ .check ∧ (sendEntry 0).kind ≠ .check ∧
    (busy (infoEntry 0)).phase ≠ .wait ∧ base.q = [] ∧ (waiting (checkEntry 0) 9).q = [checkEntry 0] ∧
    (checkEntry 0).kind = .check := by decide
theorem witness_BadOrUnheardFramesDoNothing :
    Instr.dir (.easyAck 0 1 1 2) = .inbound ∧ draining.running = false ∧ Instr.wellFormed (.easyAck 0 1 1 3) = false := by
  decide
theorem witness_BytesAreDiscardedWhileStopped :
    (given draining (.rxByte 0xAA)).inputs = [.rxByte 0xAA] ∧ (given draining (.rxByte 0xAA)).running = false := by decide

/-- A completed frame, and the two-byte candidate seen with the third byte. -/
theorem witness_OneCandidateAByte :
    parseFrame (ackFrame.take 6) = .notEnoughData ∧ parseFrame (ackFrame.take 6 ++ [0x02]) ≠ .notEnoughData ∧
    parseFrame [0xAA, 0x00] = .notEnoughData ∧ parseFrame ([0xAA, 0x00] ++ [0xAA]) ≠ .notEnoughData := by decide
theorem witness_IncompleteStaysCorruptGoesSilently :
    (given base (.rxByte 0xAA)).inputs = [.rxByte 0xAA] ∧ parseFrame base.rb = .notEnoughData ∧
    parseFrame (base.rb ++ [0xAA]) = .notEnoughData ∧
    parseFrame (ackFrame.take 6) = .notEnoughData ∧
    parseFrame (ackFrame.take 6 ++ [0x03]) ∈ [Verdict.malformedLength, .badHeader, .checksumMismatch] ∧
    parseFrame ([0xAA, 0x02, 0x4A] ++ [0x0A]) = .frame 0x4A [] ∧ decodeResponse 0x4A [] = .unrecognised := by decide
theorem witness_ReadBufferNeverOverflows :
    parseFrame ([0xAA, 0xFF] ++ List.replicate 254 0x00) = .notEnoughData ∧
    ([0xAA, 0xFF] ++ List.replicate 254 (0x00 : Byte)).length = 256 := by
  have h : ([0xAA, 0xFF] ++ List.replicate 254 (0x00 : Byte)).length = 256 := by
    rw [List.length_append, List.length_replicate]; rfl
  exact ⟨(parseFrame_notEnough_iff _).2 (.inr (by rw [h]; exact (by decide : 256 < 2 + 255))), h⟩
theorem witness_UnsolicitedBytesTouchOnlyTheBuffer :
    (given { busy (infoEntry 0) with rb := ackFrame.take 6 } (.rxByte 0x02)).inputs = [.rxByte 0x02] ∧
    (busy (infoEntry 0)).phase ≠ .wait := by decide

/-- With `delay_cfg = 0` all three outputs come. -/
theorem witness_ReceivedByteEmitsAtMostThreeInOrder :
    outsOf (step (given { waiting (infoEntry 0) 9 with
      q := [infoEntry 0, checkEntry 1], nextTag := 2, delayCfg := 0, rb := ackFrame.take 6 } (.rxByte 0x02))) =
    [.statusUpdate 1 0x01, .settle 0 .done, .txFrame [0xAA, 0x02, 0x4A, 0x0A]] := by decide
theorem witness_FrameInAnyTwoChunksIsDeliveredOnce :
    buildFrame 0x4D [0x00, 0x01, 0x01] = some ackFrame ∧ base.running = true ∧ base.rb = [] ∧
    ackFrame.take 3 ++ ackFrame.drop 3 = ackFrame := by decide
theorem witness_TxDoneByPhase :
    (busy (infoEntry 0)).phase = .txBusy ∧ (busy (infoEntry 0)).q = [infoEntry 0] ∧ draining.phase = .txDrain ∧
    draining.toCnt = 0 ∧ (delayed (infoEntry 0) 9).phase = .delay ∧
    (given draining (.txDone false)).inputs = [.txDone false] := by decide
theorem witness_TickByPhase :
    (waiting (infoEntry 0) 2).phase = .wait ∧ 1 < (waiting (infoEntry 0) 2).toCnt.toNat ∧
    (waiting (infoEntry 0) 1).toCnt = 1 ∧ (waiting (infoEntry 0) 1).q = [infoEntry 0] ∧
    (delayed (infoEntry 0) 2).phase = .delay ∧ 1 < (delayed (infoEntry 0) 2).delayCnt.toNat ∧
    (delayed (infoEntry 0) 1).delayCnt = 1 ∧ (delayed (infoEntry 0) 1).running = true ∧
    encodeEntry (infoEntry 0) = some [0xAA, 0x04, 0x4E, 0x00, 0x10, 0xF4] ∧
    ({ base with phase := .delay, delayCnt := 1 } : State).q = [] ∧ draining.phase = .txDrain := by decide

/-- The response of the first clause completed in the cycle of the last tick; the delay of the second at its end. -/
theorem witness_OneCycleOrderFavoursResponseAndCommand :
    (waiting (infoEntry 0) 1).running = true ∧ (waiting (infoEntry 0) 1).phase = .wait ∧
    (waiting (infoEntry 0) 1).toCnt = 1 ∧ (waiting (infoEntry 0) 1).q = [infoEntry 0] ∧ (infoEntry 0).kind ≠ .check ∧
    ackFrame.take 6 ++ [0x02] = [0xAA, 0x05, 0x4D, 0x00, 0x01, 0x01, checksum [0xAA, 0x05, 0x4D, 0x00, 0x01, 0x01]] ∧
    (runEvents (Cycle.events { reset := false, txDone := none, rxByte := some 0x02, tick := true, cmd := none })
      { waiting (infoEntry 0) 1 with rb := ackFrame.take 6 }).isSome = true ∧
    ({ base with phase := .delay, delayCnt := 1 } : State).q = [] ∧
    ({ base with phase := .delay, delayCnt := 1 } : State).running = true := by decide

/-! The statements over runs: states with the invariant, in four phases. -/

theorem waiting_inv (n : BitVec 13) (h0 : 0 < n.toNat) (h1 : n.toNat ≤ 5000) : StateInv (waiting (infoEntry 0) n) where
  inFlight := fun _ => ⟨by simp [waiting, one], rfl⟩
  timeout := ⟨fun _ => h0, fun _ => rfl⟩
  timeoutBound := h1
  delay := by simp [waiting, one, base, State.reset]
  stopped := by simp [waiting, one, base]
  notPostponed := by simp [waiting]
  noCandidate := (by decide : parseFrame [] = .notEnoughData)
  room := by intro m h; cases h; exact (by decide : 1 ≤ 16)
  tags := (by decide : [0#16] = tagsBefore 1 1)
  entries := by intro e he; simp [waiting, one] at he; subst he; decide

theorem draining_inv : StateInv draining where
  inFlight := by decide
  timeout := by decide
  timeoutBound := by decide
  delay := by decide
  stopped := by decide
  notPostponed := by decide
  noCandidate := by decide
  room := by intro m h; cases h; decide
  tags := by decide
  entries := by decide

theorem delayed_inv : StateInv (delayed (infoEntry 0) 1) where
  inFlight := by decide
  timeout := by decide
  timeoutBound := by decide
  delay := by decide
  stopped := by decide
  notPostponed := by decide
  noCandidate := by decide
  room := by intro m h; cases h; decide
  tags := by decide
  entries := by decide

/-- A step from a state with the invariant, here the timeout: for the statements with `StateInv s` and a step. -/
theorem witness_EveryStepKeepsTheInvariant :
    StateInv (waiting (infoEntry 0) 1) ∧ ∃ t, stepOn .tick (waiting (infoEntry 0) 1) = .next t ∧ t.phase = .delay :=
  ⟨waiting_inv 1 (by decide) (by decide), _, rfl, by decide⟩

/-- START, STOP, SETDELAY and an accepted request, each from a state that it changes. -/
theorem witness_ControlStateIsWrittenOnlyByItsOperations :
    gives (stepOn (.cmd 0x01000000) State.reset) (fun t => t.running) = true ∧ State.reset.running = false ∧
    gives (stepOn (.cmd 0x02000000) base) (fun t => !t.running) = true ∧ base.running = true ∧
    gives (stepOn (.cmd 0x030003E8) base) (fun t => t.delayCfg != base.delayCfg) = true ∧
    gives (stepOn (.cmd 0x4A000000) base) (fun t => acceptTags t.outs == [0]) = true := by decide

/-- The end of a delay sends the frame of the head. -/
theorem witness_OnlyLegalFramesAreSent :
    StateInv (delayed (infoEntry 0) 1) ∧
    sentFrames (outsOf (stepOn .tick (delayed (infoEntry 0) 1))) = [[0xAA, 0x04, 0x4E, 0x00, 0x10, 0xF4]] :=
  ⟨delayed_inv, by decide⟩

/-- A refusal, an error settlement and a status push. -/
theorem witness_OutputsCarryOnlyTheirOwnErrors :
    outsOf (stepOn (.cmd 0x4E000000) base) = [.refuse .invalidChannel] ∧
    outsOf (stepOn (.txDone false) (busy (infoEntry 0))) = [.settle 0 (.err .transportWriteFailed)] ∧
    outsOf (stepOn (.rxByte 0x02) { base with rb := ackFrame.take 6 }) = [.statusUpdate 1 0x01] := by decide
theorem witness_QueuedTagsAreDistinct :
    StateInv (waiting (infoEntry 0) 5000) ∧ (waiting (infoEntry 0) 5000).q.length ≤ 65536 :=
  ⟨waiting_inv 5000 (by decide) (by decide), by decide⟩

/-- A run without reset that settles one request: for the three statements on settlements. -/
theorem witness_RunsWithoutReset :
    StateInv (waiting (infoEntry 0) 1) ∧ Event.reset ∉ [Event.cmd 0x4A000000, Event.tick] ∧
    (runEvents [.cmd 0x4A000000, .tick] (waiting (infoEntry 0) 1)).map (fun r => (acceptTags r.2, settleTags r.2)) =
      some ([1], [0]) ∧
    (waiting (infoEntry 0) 1).q.length + [1#16].length ≤ 65536 :=
  ⟨waiting_inv 1 (by decide) (by decide), by decide, by decide, by decide⟩

/-- Both ends of an episode, and 499 ticks' worth of room before the next frame. -/
theorem witness_FramesArePaced :
    (StateInv (waiting (infoEntry 0) 1) ∧ inFlight (waiting (infoEntry 0) 1) ≠ [] ∧
      gives (stepOn .tick (waiting (infoEntry 0) 1)) (fun t => settleTags t.outs != [] && t.phase != .txDrain) = true) ∧
    (StateInv draining ∧ draining.phase = .txDrain ∧
      gives (stepOn (.txDone true) draining) (fun t => t.phase != .txDrain) = true) ∧
    tickCount [.tick, .rxByte 0x00] < (waiting (infoEntry 0) 1).delayCfg.toNat :=
  ⟨⟨waiting_inv 1 (by decide) (by decide), by decide, by decide⟩, ⟨draining_inv, by decide, by decide⟩, by decide⟩
theorem witness_WaitingRequestSettlesWithinItsTimeout :
    StateInv (waiting (infoEntry 0) 1) ∧ (waiting (infoEntry 0) 1).phase = .wait ∧
    (waiting (infoEntry 0) 1).q = [infoEntry 0] ∧ Event.reset ∉ [Event.tick] ∧
    (waiting (infoEntry 0) 1).toCnt.toNat ≤ tickCount [.tick] ∧
    (runEvents [.tick] (waiting (infoEntry 0) 1)).isSome = true :=
  ⟨waiting_inv 1 (by decide) (by decide), by decide, by decide, by decide, by decide, by decide⟩

/-- Ticks and reports in turn. -/
def turns (n : Nat) : Event := if n % 2 = 0 then .tick else .txDone true

/-- The states of that run from a request in WAIT. -/
def turnStates : Nat → State
  | 0 => waiting (infoEntry 0) 5000
  | n + 1 =>
    match stepOn (turns n) (turnStates n) with
    | .next t => t
    | .fault _ => turnStates n
    | .refused _ => turnStates n

theorem turns_next (n : Nat) (s : State) : ∃ t, stepOn (turns n) s = .next t := by
  unfold turns
  split
  · simp only [stepOn_eq_react, react, onTick]
    split <;> (try split) <;> exact ⟨_, rfl⟩
  · simp only [stepOn_eq_react, react, onTxDone]
    split <;> (try split) <;> exact ⟨_, rfl⟩

theorem witness_EveryRequestSettlesSomeTime :
    IsRun turns turnStates ∧ StateInv (turnStates 0) ∧ (∀ n, turns n ≠ .reset) ∧ WritesAreReported turns turnStates ∧
    TicksNeverStop turns ∧ infoEntry 0 ∈ (turnStates 0).q := by
  refine ⟨fun n => ?_, waiting_inv 5000 (by decide) (by decide), fun n => ?_, fun n _ => ?_, fun n => ?_, by decide⟩
  · obtain ⟨t, ht⟩ := turns_next n (turnStates n)
    rw [ht, turnStates, ht]
  · unfold turns; split <;> simp
  · exact ⟨2 * n + 1, by omega, true, by unfold turns; rw [if_neg (by omega)]⟩
  · exact ⟨2 * n, by omega, by unfold turns; rw [if_pos (by omega)]⟩

end Sys2Proof.Tests
end

section
/-! SUPPORT. One turn of the receive loop, that every step answers a next state (R9), and the errors and channels that
outputs carry (R8, R200). -/

namespace Sys2Proof.Machine

/-! ## The step of a command word -/

theorem onCmd_of_decode {w : CmdWord} {i : Instr} (h : decodeWord w = .ok i) (s : State) : onCmd w s = exec i s := by
  simp only [onCmd, h]

/-- Settles O16: the step of the event is the reaction to the word, which runs what the word decodes to. -/
theorem stepRunsTheDecodedCommand : Obligations.StepRunsTheDecodedCommand := by
  intro s w rest i hin hdec
  calc step s
      = onCmd w { s with inputs := rest, outs := [] } := step_of_inputs hin
    _ = exec i { s with inputs := rest, outs := [] } := onCmd_of_decode hdec _

/-! ## The receive loop -/

/-- The state with the candidate at the front of `rb` removed (R121). -/
def dropCandidate (s : State) : State := { s with rb := s.rb.drop (candidateSize s.rb) }

@[simp] theorem dropCandidate_outs (s : State) : (dropCandidate s).outs = s.outs := rfl

/-- One turn of the loop of R121: it ends, or it removes the candidate, delivers it if it is a frame, and goes on. -/
theorem drain_succ_cases (n : Nat) (s : State) :
    (parseFrame s.rb = .notEnoughData ∧ drain (n + 1) s = .next s) ∨
      (∃ c p u, parseFrame s.rb = .frame c p ∧ deliver (candidate s.rb) (dropCandidate s) = .next u ∧
        drain (n + 1) s = drain n u) ∨
      (parseFrame s.rb ∈ [.malformedLength, .badHeader, .checksumMismatch] ∧
        drain (n + 1) s = drain n (dropCandidate s)) := by
  rw [drain]
  cases hp : parseFrame s.rb with
  | notEnoughData => exact .inl ⟨rfl, rfl⟩
  | frame c p =>
    obtain ⟨u, hu⟩ := deliver_next (candidate s.rb) (dropCandidate s)
    refine .inr (.inl ⟨c, p, u, rfl, hu, ?_⟩)
    rw [dropCandidate] at hu
    simp only [hu]
  | malformedLength => exact .inr (.inr ⟨by simp, rfl⟩)
  | badHeader => exact .inr (.inr ⟨by simp, rfl⟩)
  | checksumMismatch => exact .inr (.inr ⟨by simp, rfl⟩)

theorem drain_next (n : Nat) (s : State) : ∃ t, drain n s = .next t := by
  induction n generalizing s with
  | zero => exact ⟨s, rfl⟩
  | succ n ih =>
    rcases drain_succ_cases n s with ⟨_, h⟩ | ⟨_, _, u, _, _, h⟩ | ⟨_, h⟩ <;> rw [h]
    · exact ⟨s, rfl⟩
    · exact ih u
    · exact ih _

/-- What removing a candidate and delivering one keep, the whole loop keeps. -/
theorem drain_keeps {P : State → Prop} (hdrop : ∀ s, P s → P (dropCandidate s))
    (hdeliver : ∀ c s t, P s → deliver c s = .next t → P t) {n : Nat} {s t : State}
    (h : drain n s = .next t) (hs : P s) : P t := by
  induction n generalizing s with
  | zero => cases h; exact hs
  | succ n ih =>
    rcases drain_succ_cases n s with ⟨_, hd⟩ | ⟨_, _, u, _, hu, hd⟩ | ⟨_, hd⟩ <;> rw [hd] at h
    · cases h; exact hs
    · exact ih h (hdeliver _ _ u (hdrop s hs) hu)
    · exact ih h (hdrop s hs)

/-! ## Every step answers a next state -/

theorem onCmd_next (w : CmdWord) (s : State) : ∃ t, onCmd w s = .next t := by
  unfold onCmd
  split
  · exact exec_next _ s
  · exact ⟨_, rfl⟩

theorem onRxByte_next (b : Byte) (s : State) : ∃ t, onRxByte b s = .next t := by
  unfold onRxByte
  split
  · exact drain_next _ _
  · exact ⟨s, rfl⟩

theorem onTxDone_next (ok : Bool) (s : State) : ∃ t, onTxDone ok s = .next t := by
  unfold onTxDone
  cases s.phase with
  | txBusy => cases ok <;> exact ⟨_, rfl⟩
  | txDrain => exact ⟨_, rfl⟩
  | idle => exact ⟨s, rfl⟩
  | wait => exact ⟨s, rfl⟩
  | delay => exact ⟨s, rfl⟩

theorem onTick_next (s : State) : ∃ t, onTick s = .next t := by
  unfold onTick
  cases s.phase with
  | wait => dsimp only; split <;> exact ⟨_, rfl⟩
  | delay => dsimp only; split <;> exact ⟨_, rfl⟩
  | idle => exact ⟨s, rfl⟩
  | txBusy => exact ⟨s, rfl⟩
  | txDrain => exact ⟨s, rfl⟩

theorem react_next (e : Event) (s : State) : ∃ t, react e s = .next t := by
  cases e with
  | reset => exact ⟨_, rfl⟩
  | cmd w => exact onCmd_next w s
  | rxByte b => exact onRxByte_next b s
  | txDone ok => exact onTxDone_next ok s
  | tick => exact onTick_next s

/-- Settles O19: without a pending event the step is idle, and the reaction to each event answers a next state; for a
received byte by induction on the turns of the receive loop. -/
theorem everyStepGivesANextState : Obligations.EveryStepGivesANextState := by
  intro s
  cases hin : s.inputs with
  | nil => exact ⟨{ s with outs := [] }, by simp only [step, hin]⟩
  | cons e rest =>
    rw [step_of_inputs hin]
    exact react_next e _

/-! ## What outputs carry -/

/-- A request settles with a result, or with one of the three errors that can follow its acceptance (R8, R200). -/
@[simp] def Settlement.lawful : Settlement → Prop
  | .channels _ => True
  | .done => True
  | .err e => e ∈ [.transportWriteFailed, .responseTimeout, .dispatcherStopped]

/-- An output carries only the errors and channels of its own kind (R8, R200). -/
@[simp] def Output.lawful : Output → Prop
  | .txFrame _ => True
  | .accept _ => True
  | .cmdOk => True
  | .refuse e => e ∈ [.invalidChannel, .invalidAction, .dispatcherStopped, .queueFull, .illegalOp]
  | .settle _ outcome => outcome.lawful
  | .statusUpdate c _ => 1 ≤ c ∧ c ≤ 15

/-- `lawful` is what the statement says of one output. -/
theorem Output.lawful_iff (o : Output) :
    o.lawful ↔
      (∀ e, o = .refuse e → e ∈ [.invalidChannel, .invalidAction, .dispatcherStopped, .queueFull, .illegalOp]) ∧
      (∀ tag e, o = .settle tag (.err e) → e ∈ [.transportWriteFailed, .responseTimeout, .dispatcherStopped]) ∧
      (∀ c st, o = .statusUpdate c st → 1 ≤ c ∧ c ≤ 15) := by
  cases o with
  | settle tag outcome => cases outcome <;> simp
  | txFrame _ => simp
  | accept _ => simp
  | cmdOk => simp
  | refuse _ => simp
  | statusUpdate _ _ => simp

/-- All outputs of a list are lawful. -/
def Lawful (os : List Output) : Prop := ∀ o ∈ os, o.lawful

@[simp] theorem lawful_nil : Lawful [] := by simp [Lawful]

@[simp] theorem lawful_append (a b : List Output) : Lawful (a ++ b) ↔ Lawful a ∧ Lawful b := by
  simp [Lawful, or_imp, forall_and]

@[simp] theorem lawful_singleton (o : Output) : Lawful [o] ↔ o.lawful := by simp [Lawful]

/-- `refuse` and `transmit` emit in this way too. -/
theorem lawful_emit {o : Output} (ho : o.lawful) {s : State} (hs : Lawful s.outs) : Lawful (s.emit o).outs :=
  (lawful_append _ _).2 ⟨hs, (lawful_singleton o).2 ho⟩

/-! A launch and the start of a delay put out frames at most. -/

@[simp] theorem lawful_tryLaunch (s : State) : Lawful (tryLaunch s).outs ↔ Lawful s.outs := by
  rcases tryLaunch_cases s with ⟨_, h⟩ | ⟨bs, _, h⟩ <;> simp [h]

@[simp] theorem lawful_enterDelay (s : State) : Lawful (enterDelay s).outs ↔ Lawful s.outs := by
  rcases enterDelay_cases s with ⟨_, h⟩ | ⟨_, h⟩ <;> simp [h]

theorem lawful_launchExactly {bs : List Byte} {s : State} (hs : Lawful s.outs) : Lawful (launchExactly bs s).outs := by
  unfold launchExactly
  split
  · exact lawful_emit (by simp) hs
  · exact hs

theorem lawful_settleHead {o : Settlement} (ho : o.lawful) {s : State} (hs : Lawful s.outs) :
    Lawful (settleHead o s).outs := by
  rcases settleHead_cases o s with ⟨_, h⟩ | ⟨e, rest, _, h⟩ <;> rw [h]
  · exact (lawful_enterDelay _).2 hs
  · exact (lawful_enterDelay _).2 (lawful_emit (o := .settle e.tag o) ho hs)

theorem lawful_admitRequest {kind : Kind} {chan : BitVec 4} {act : Byte} {s : State} (hs : Lawful s.outs) :
    Lawful (admitRequest kind chan act s).outs := by
  rcases admitRequest_cases kind chan act s with ⟨_, h⟩ | ⟨_, _, h⟩ | ⟨_, _, h⟩ <;> rw [h]
  · exact lawful_emit (by simp) hs
  · exact lawful_emit (by simp) hs
  · exact (lawful_tryLaunch _).2 (lawful_emit (by simp) hs)

theorem lawful_deliverConfirm {high low : Byte} {s : State} (hs : Lawful s.outs) :
    Lawful (deliverConfirm high low s).outs := by
  rcases deliverConfirm_cases high low s with ⟨_, h⟩ | ⟨_, h⟩ <;> rw [h]
  · exact hs
  · exact lawful_settleHead (by simp) hs

/-- The push happens for a channel other than 0 only, and no bitmap gives one above 15 (R103, R125). -/
theorem lawful_pushStatus {high low status : Byte} {s : State} (hs : Lawful s.outs) :
    Lawful (pushStatus high low status s).outs := by
  rcases pushStatus_cases high low status s with ⟨_, h⟩ | ⟨hc, h⟩ <;> rw [h]
  · exact hs
  · exact lawful_emit (o := .statusUpdate _ _) ⟨Nat.pos_of_ne_zero hc, bytesToChannel_le high low⟩ hs

theorem lawful_deliverAck {high low status : Byte} {s : State} (hs : Lawful s.outs) :
    Lawful (deliverAck high low status s).outs := by
  rcases deliverAck_cases high low status s with ⟨_, h⟩ | ⟨_, h⟩ <;> rw [h]
  · exact lawful_pushStatus hs
  · exact lawful_settleHead (by simp) (lawful_pushStatus hs)

theorem lawful_rejectAll {s : State} (hs : Lawful s.outs) : Lawful (rejectAll s).outs := by
  have hrejected : Lawful (s.q.map fun e => Output.settle e.tag (.err .dispatcherStopped)) := by
    simp [Lawful]
  exact (lawful_append _ _).2 ⟨hs, hrejected⟩

@[simp] theorem lawful_stopPhase (s : State) : Lawful (stopPhase s).outs ↔ Lawful s.outs := by
  unfold stopPhase
  split <;> simp

/-! ## Every step puts out lawful outputs -/

theorem lawful_exec {i : Instr} {s t : State} (hs : Lawful s.outs) (h : exec i s = .next t) : Lawful t.outs := by
  have hok : Lawful (s.emit .cmdOk).outs := lawful_emit (by simp) hs
  cases i with
  | easyCheck => cases h; exact lawful_launchExactly hs
  | easyInfo _ _ _ => cases h; exact lawful_launchExactly hs
  | easySend _ _ _ _ => cases h; exact lawful_launchExactly hs
  | easyConfirm _ _ _ =>
    cases h
    split
    · exact lawful_deliverConfirm hs
    · exact hs
  | easyAck _ _ _ _ =>
    cases h
    split
    · exact lawful_deliverAck hs
    · exact hs
  | nop _ _ => cases h; exact hok
  | start _ _ => cases h; exact (lawful_tryLaunch _).2 hok
  | stop _ _ => cases h; exact (lawful_stopPhase _).2 (lawful_rejectAll hok)
  | setDelay _ _ => cases h; exact hok
  | check _ _ => cases h; exact lawful_admitRequest hs
  | send _ _ =>
    cases h
    split
    · exact lawful_emit (by simp) hs
    · split
      · exact lawful_emit (by simp) hs
      · exact lawful_admitRequest hs
  | info _ _ =>
    cases h
    split
    · exact lawful_emit (by simp) hs
    · exact lawful_admitRequest hs

theorem lawful_onCmd {w : CmdWord} {s t : State} (hs : Lawful s.outs) (h : onCmd w s = .next t) : Lawful t.outs := by
  unfold onCmd at h
  split at h
  · exact lawful_exec hs h
  · cases h
    exact lawful_emit (by simp) hs

theorem lawful_deliver {c : List Byte} {s t : State} (hs : Lawful s.outs) (h : deliver c s = .next t) :
    Lawful t.outs := by
  unfold deliver at h
  split at h
  · exact lawful_exec hs h
  · cases h
    exact hs

theorem lawful_onRxByte {b : Byte} {s t : State} (hs : Lawful s.outs) (h : onRxByte b s = .next t) :
    Lawful t.outs := by
  unfold onRxByte at h
  split at h
  · exact drain_keeps (P := fun s => Lawful s.outs) (fun s hs => by rwa [dropCandidate_outs])
      (fun _ _ _ => lawful_deliver) h hs
  · cases h
    exact hs

theorem lawful_onTxDone {ok : Bool} {s t : State} (hs : Lawful s.outs) (h : onTxDone ok s = .next t) :
    Lawful t.outs := by
  unfold onTxDone at h
  cases hp : s.phase <;> simp only [hp] at h
  case txBusy =>
    split at h <;> cases h
    · exact hs
    · exact lawful_settleHead (by simp) hs
  case txDrain => cases h; exact (lawful_enterDelay s).2 hs
  all_goals cases h; exact hs

theorem lawful_onTick {s t : State} (hs : Lawful s.outs) (h : onTick s = .next t) : Lawful t.outs := by
  unfold onTick at h
  cases hp : s.phase <;> simp only [hp] at h
  case wait =>
    split at h <;> cases h
    · exact lawful_settleHead (by simp) hs
    · exact hs
  case delay =>
    split at h <;> cases h
    · exact (lawful_tryLaunch _).2 hs
    · exact hs
  all_goals cases h; exact hs

theorem lawful_react {e : Event} {s t : State} (hs : Lawful s.outs) (h : react e s = .next t) : Lawful t.outs := by
  cases e with
  | reset => cases h; exact lawful_nil
  | cmd w => exact lawful_onCmd hs h
  | rxByte b => exact lawful_onRxByte hs h
  | txDone ok => exact lawful_onTxDone hs h
  | tick => exact lawful_onTick hs h

theorem lawful_step {s t : State} (h : step s = .next t) : Lawful t.outs := by
  cases hin : s.inputs with
  | nil =>
    simp only [step, hin] at h
    cases h
    exact lawful_nil
  | cons e rest =>
    rw [step_of_inputs hin] at h
    exact lawful_react lawful_nil h

/-- Settles O52: a step starts with no outputs, and every procedure it calls adds lawful ones only. -/
theorem outputsCarryOnlyTheirOwnErrors : Obligations.OutputsCarryOnlyTheirOwnErrors := by
  intro s t h o ho
  exact o.lawful_iff.1 (lawful_step h o ho)

end Sys2Proof.Machine
end

section
/-! SUPPORT. What the reaction to each event can be, one inversion lemma per event, and the word of a
decoded instruction. -/

namespace Sys2Proof.Machine

/-! ## The reaction to each event -/

/-- The reaction to a command word runs its instruction or refuses it (R194). -/
theorem onCmd_cases {w : CmdWord} {s t : State} (h : onCmd w s = .next t) :
    (∃ i, decodeWord w = .ok i ∧ exec i s = .next t) ∨ t = refuse .illegalOp s := by
  unfold onCmd at h
  split at h
  next i hi => exact .inl ⟨i, hi, h⟩
  next => cases h; exact .inr rfl

/-- Bytes taken from the buffer are a confirm, an ack, or dropped (R123, R126). -/
theorem deliver_cases {c : List Byte} {s t : State} (h : deliver c s = .next t) :
    t = s ∨ (∃ high low, t = deliverConfirm high low s) ∨ ∃ high low status, t = deliverAck high low status s := by
  unfold deliver at h
  split at h
  next i hi =>
    have hdir := decodeInbound_dir hi
    cases i <;> simp only [Instr.dir, reduceCtorEq] at hdir
    case easyConfirm high low cks =>
      cases h
      split
      · exact .inr (.inl ⟨high, low, rfl⟩)
      · exact .inl rfl
    case easyAck high low status cks =>
      cases h
      split
      · exact .inr (.inr ⟨high, low, status, rfl⟩)
      · exact .inl rfl
  next => cases h; exact .inl rfl

theorem onRxByte_cases {b : Byte} {s t : State} (h : onRxByte b s = .next t) :
    (s.running = true ∧ drain (s.rb.length + 1) { s with rb := s.rb ++ [b] } = .next t) ∨
      (s.running = false ∧ t = s) := by
  unfold onRxByte at h
  split at h
  next hrun => exact .inl ⟨hrun, h⟩
  next hrun => cases h; exact .inr ⟨by simpa using hrun, rfl⟩

theorem onTxDone_cases {ok : Bool} {s t : State} (h : onTxDone ok s = .next t) :
    (s.phase = .txBusy ∧ t = { s with phase := .wait, toCnt := Config.timeoutTicks }) ∨
      (s.phase = .txBusy ∧ t = settleHead (.err .transportWriteFailed) s) ∨
      (s.phase = .txDrain ∧ t = enterDelay s) ∨ t = s := by
  unfold onTxDone at h
  cases hp : s.phase <;> simp only [hp] at h
  case txBusy => split at h <;> cases h <;> simp
  case txDrain => cases h; simp
  all_goals cases h; simp

theorem onTick_cases {s t : State} (h : onTick s = .next t) :
    (s.phase = .wait ∧ t = settleHead (.err .responseTimeout) { s with toCnt := s.toCnt - 1 }) ∨
      (s.phase = .wait ∧ s.toCnt - 1 ≠ 0 ∧ t = { s with toCnt := s.toCnt - 1 }) ∨
      (s.phase = .delay ∧ s.delayCnt - 1 = 0 ∧ t = tryLaunch { s with delayCnt := s.delayCnt - 1, phase := .idle }) ∨
      (s.phase = .delay ∧ s.delayCnt - 1 ≠ 0 ∧ t = { s with delayCnt := s.delayCnt - 1 }) ∨ t = s := by
  unfold onTick at h
  cases hp : s.phase <;> simp only [hp] at h
  case wait =>
    split at h
    next => cases h; exact .inl ⟨rfl, rfl⟩
    next hc => cases h; exact .inr (.inl ⟨rfl, hc, rfl⟩)
  case delay =>
    split at h
    next hc => cases h; exact .inr (.inr (.inl ⟨rfl, hc, rfl⟩))
    next hc => cases h; exact .inr (.inr (.inr (.inl ⟨rfl, hc, rfl⟩)))
  all_goals cases h; exact .inr (.inr (.inr (.inr rfl)))

/-- A step takes the oldest event and reacts to it, or only empties the outputs (R6, R9). -/
theorem step_cases {s t : State} (h : step s = .next t) :
    t = { s with outs := [] } ∨ ∃ e rest, react e { s with inputs := rest, outs := [] } = .next t := by
  cases hin : s.inputs with
  | nil =>
    simp only [step, hin] at h
    cases h
    exact .inl rfl
  | cons e rest =>
    rw [step_of_inputs hin] at h
    exact .inr ⟨e, rest, h⟩

/-! ## Shared procedures -/

/-- An outbound frame as an instruction is the launch of the head or nothing (R84). -/
theorem launchExactly_cases (bs : List Byte) (s : State) :
    launchExactly bs s = s ∨ launchExactly bs s = tryLaunch s := by
  by_cases h : launchFrame s = some bs
  · exact .inr (launchExactly_eq_tryLaunch h)
  · exact .inl (if_neg h)

theorem stopPhase_cases (s : State) :
    (s.phase = .txBusy ∧ stopPhase s = { s with phase := .txDrain }) ∨
      (s.phase = .wait ∧ stopPhase s = enterDelay s) ∨
      ((s.phase = .idle ∨ s.phase = .delay ∨ s.phase = .txDrain) ∧ stopPhase s = s) := by
  unfold stopPhase
  cases hp : s.phase <;> simp

/-- What an INFO word does: the channel check of R140, then the rest of the request. -/
theorem exec_info_cases {chan : BitVec 8} {arg : BitVec 16} {s t : State} (h : exec (.info chan arg) s = .next t) :
    t = refuse .invalidChannel s ∨ (legalChannel chan = true ∧ t = admitRequest .info (entryChan chan) 0 s) := by
  cases h
  split
  · exact .inl rfl
  next hchan => exact .inr ⟨by simpa using hchan, rfl⟩

/-- What a SEND word does: the channel and action checks of R140, then the rest of the request. -/
theorem exec_send_cases {chan : BitVec 8} {arg : BitVec 16} {s t : State} (h : exec (.send chan arg) s = .next t) :
    (∃ e, t = refuse e s) ∨
      (legalChannel chan = true ∧ legalAction (actionOf arg) = true ∧
        t = admitRequest .send (entryChan chan) (actionOf arg) s) := by
  cases h
  split
  · exact .inl ⟨_, rfl⟩
  next hchan =>
    split
    · exact .inl ⟨_, rfl⟩
    next hact => exact .inr ⟨by simpa using hchan, by simpa using hact, rfl⟩

/-! ## The word of a decoded instruction -/

/-- A word that decodes is the encoding of its instruction. -/
theorem encode_of_decodeWord {w : CmdWord} {i : Instr} (h : decodeWord w = .ok i) : encode i = .word w := by
  have hw := cmdWord_fields w
  unfold decodeWord at h
  dsimp only at h
  split_ifs at h with hop hop hop hop hop hop hop <;> cases h <;> rw [hop] at hw <;> simp only [encode, hw]

end Sys2Proof.Machine
end

section
/-! SUPPORT. The reset state (R36), the length of the receive buffer (R33), and the control state: which steps write
`running`, `delay_cfg` and `next_tag` (R26, R27, R37, R214). -/

namespace Sys2Proof.Machine

/-! ## Reset -/

/-- Settles O14: the values stand in the definition; while stopped a byte is discarded, and in IDLE a report and a tick
have no effect, so each of the three steps evaluates to the reset state. -/
theorem resetStateHasTheStatedValues : Obligations.ResetStateHasTheStatedValues :=
  ⟨rfl, rfl, rfl, rfl, rfl, rfl, rfl, rfl, fun _ => rfl, fun _ => rfl, rfl⟩

/-! ## The receive buffer -/

/-- A length byte counts 257 bytes at most (R107). -/
theorem candidateSize_le (bs : List Byte) : candidateSize bs ≤ 257 := by
  have := (bs.getD 1 0).isLt
  unfold candidateSize
  omega

/-- Settles O40: an incomplete candidate is shorter than its size, which is at most 257. -/
theorem readBufferNeverOverflows : Obligations.ReadBufferNeverOverflows := by
  intro rb b h
  have hsize := candidateSize_le rb
  have hshort : rb.length < 3 ∨ rb.length < candidateSize rb := (parseFrame_notEnough_iff rb).1 h
  have hlen : rb.length ≤ 256 := by omega
  exact ⟨hlen, by rw [List.length_append]; exact Nat.succ_le_succ hlen⟩

/-! ## The control state -/

/-- The items of the state that only their own operations write, and the parameter. In place of `next_tag` stands its
value at the start of the step, so that every procedure leaves it alone, an acceptance too. -/
structure Control where
  running : Bool
  delayCfg : BitVec 16
  startTag : Tag
  qdepth : Config.QDepth

/-- The control state in the middle of a step, whose acceptances so far stand in the outputs. -/
def State.control (s : State) : Control where
  running := s.running
  delayCfg := s.delayCfg
  startTag := s.nextTag - BitVec.ofNat 16 (acceptTags s.outs).length
  qdepth := s.qdepth

/-- An output other than an acceptance leaves the control state alone. -/
theorem control_emit {o : Output} (ho : acceptTags [o] = []) (s : State) : (s.emit o).control = s.control := by
  simp [State.control, ho]

@[simp] theorem control_refuse (e : Err) (s : State) : (refuse e s).control = s.control := control_emit rfl s

@[simp] theorem control_tryLaunch (s : State) : (tryLaunch s).control = s.control := by
  rcases tryLaunch_cases s with ⟨_, h⟩ | ⟨bs, _, h⟩ <;> rw [h]
  exact control_emit (o := .txFrame bs) rfl s

@[simp] theorem control_launchExactly (bs : List Byte) (s : State) : (launchExactly bs s).control = s.control := by
  rcases launchExactly_cases bs s with h | h <;> simp [h]

@[simp] theorem control_enterDelay (s : State) : (enterDelay s).control = s.control := by
  rcases enterDelay_cases s with ⟨_, h⟩ | ⟨_, h⟩ <;> rw [h]
  · exact control_tryLaunch _
  · rfl

@[simp] theorem control_settleHead (o : Settlement) (s : State) : (settleHead o s).control = s.control := by
  rcases settleHead_cases o s with ⟨_, h⟩ | ⟨e, rest, _, h⟩ <;> rw [h, control_enterDelay]
  · rfl
  · exact control_emit (o := .settle e.tag o) rfl { s with q := rest, toCnt := 0 }

/-- An acceptance moves `next_tag` and emits one `Accept` (R144). -/
@[simp] theorem control_enqueue (kind : Kind) (chan : BitVec 4) (act : Byte) (s : State) :
    (enqueue kind chan act s).control = s.control := by
  have hone (n : Nat) : s.nextTag + 1 - BitVec.ofNat 16 (n + 1) = s.nextTag - BitVec.ofNat 16 n := by
    rw [BitVec.ofNat_add]
    exact add_sub_add_right_eq_sub _ _ _
  rw [enqueue, control_tryLaunch]
  simpa [State.control, acceptTags] using hone _

@[simp] theorem control_admitRequest (kind : Kind) (chan : BitVec 4) (act : Byte) (s : State) :
    (admitRequest kind chan act s).control = s.control := by
  rcases admitRequest_cases kind chan act s with ⟨_, h⟩ | ⟨_, _, h⟩ | ⟨_, _, h⟩ <;> simp [h]

@[simp] theorem control_deliverConfirm (high low : Byte) (s : State) :
    (deliverConfirm high low s).control = s.control := by
  rcases deliverConfirm_cases high low s with ⟨_, h⟩ | ⟨_, h⟩ <;> simp [h]

@[simp] theorem control_pushStatus (high low status : Byte) (s : State) :
    (pushStatus high low status s).control = s.control := by
  rcases pushStatus_cases high low status s with ⟨_, h⟩ | ⟨_, h⟩ <;> rw [h]
  exact control_emit rfl s

@[simp] theorem control_deliverAck (high low status : Byte) (s : State) :
    (deliverAck high low status s).control = s.control := by
  rcases deliverAck_cases high low status s with ⟨_, h⟩ | ⟨_, h⟩ <;> simp [h]

/-- Rejecting the queue emits settlements only. -/
@[simp] theorem control_rejectAll (s : State) : (rejectAll s).control = s.control := by
  have hnone : acceptTags (s.q.map fun e => Output.settle e.tag (.err .dispatcherStopped)) = [] := by
    simp [acceptTags]
  simp [State.control, hnone]

@[simp] theorem control_stopPhase (s : State) : (stopPhase s).control = s.control := by
  rcases stopPhase_cases s with ⟨_, h⟩ | ⟨_, h⟩ | ⟨_, h⟩ <;> rw [h]
  · rfl
  · exact control_enterDelay s

/-! ## What each event does to the control state -/

/-- What an instruction does to the control state: START, STOP and SETDELAY write it, no other does (R214). -/
@[simp] def controlEffect : Instr → Control → Control
  | .easyCheck, c => c
  | .easyInfo _ _ _, c => c
  | .easySend _ _ _ _, c => c
  | .easyConfirm _ _ _, c => c
  | .easyAck _ _ _ _, c => c
  | .nop _ _, c => c
  | .start _ _, c => { c with running := true }
  | .stop _ _, c => { c with running := false }
  | .setDelay _ arg, c => { c with delayCfg := arg }
  | .check _ _, c => c
  | .send _ _, c => c
  | .info _ _, c => c

theorem control_exec {i : Instr} {s t : State} (h : exec i s = .next t) : t.control = controlEffect i s.control := by
  have hok (u : State) : (u.emit .cmdOk).control = u.control := control_emit rfl u
  cases i with
  | easyCheck => cases h; exact control_launchExactly _ s
  | easyInfo _ _ _ => cases h; exact control_launchExactly _ s
  | easySend _ _ _ _ => cases h; exact control_launchExactly _ s
  | easyConfirm high low _ =>
    cases h
    split
    · exact control_deliverConfirm high low s
    · rfl
  | easyAck high low status _ =>
    cases h
    split
    · exact control_deliverAck high low status s
    · rfl
  | nop _ _ => cases h; exact hok s
  | start _ _ =>
    cases h
    rw [control_tryLaunch, hok]
    rfl
  | stop _ _ =>
    cases h
    have hreject : (rejectAll (s.emit .cmdOk)).control = s.control := by rw [control_rejectAll, hok]
    rw [control_stopPhase]
    exact congrArg (fun c : Control => { c with running := false }) hreject
  | setDelay _ arg => cases h; exact hok { s with delayCfg := arg }
  | check _ _ => cases h; exact control_admitRequest _ _ _ s
  | send _ _ =>
    rcases exec_send_cases h with ⟨_, rfl⟩ | ⟨_, _, rfl⟩
    · exact control_refuse _ s
    · exact control_admitRequest _ _ _ s
  | info _ _ =>
    rcases exec_info_cases h with rfl | ⟨_, rfl⟩
    · exact control_refuse _ s
    · exact control_admitRequest _ _ _ s

theorem control_deliver {c : List Byte} {s t : State} (h : deliver c s = .next t) : t.control = s.control := by
  rcases deliver_cases h with rfl | ⟨_, _, rfl⟩ | ⟨_, _, _, rfl⟩
  · rfl
  · exact control_deliverConfirm _ _ s
  · exact control_deliverAck _ _ _ s

theorem control_onRxByte {b : Byte} {s t : State} (h : onRxByte b s = .next t) : t.control = s.control := by
  rcases onRxByte_cases h with ⟨_, hd⟩ | ⟨_, rfl⟩
  · exact drain_keeps (P := fun u => u.control = s.control) (fun _ hu => hu)
      (fun _ _ _ hu hv => (control_deliver hv).trans hu) hd rfl
  · rfl

theorem control_onTxDone {ok : Bool} {s t : State} (h : onTxDone ok s = .next t) : t.control = s.control := by
  rcases onTxDone_cases h with ⟨_, rfl⟩ | ⟨_, rfl⟩ | ⟨_, rfl⟩ | rfl
  · rfl
  · exact control_settleHead _ s
  · exact control_enterDelay s
  · rfl

theorem control_onTick {s t : State} (h : onTick s = .next t) : t.control = s.control := by
  rcases onTick_cases h with ⟨_, rfl⟩ | ⟨_, _, rfl⟩ | ⟨_, _, rfl⟩ | ⟨_, _, rfl⟩ | rfl
  · exact control_settleHead _ _
  · rfl
  · exact control_tryLaunch _
  · rfl
  · rfl

/-- Apart from Reset, the control state changes as a decoded command word says, or not at all. -/
theorem control_react {e : Event} {s t : State} (hne : e ≠ .reset) (h : react e s = .next t) :
    t.control = s.control ∨ ∃ i w, e = .cmd w ∧ encode i = .word w ∧ t.control = controlEffect i s.control := by
  cases e with
  | reset => exact absurd rfl hne
  | cmd w =>
    rcases onCmd_cases h with ⟨i, hdec, hexec⟩ | rfl
    · exact .inr ⟨i, w, rfl, encode_of_decodeWord hdec, control_exec hexec⟩
    · exact .inl (control_refuse _ s)
  | rxByte b => exact .inl (control_onRxByte h)
  | txDone ok => exact .inl (control_onTxDone h)
  | tick => exact .inl (control_onTick h)

/-! ## Who writes the control state -/

theorem controlEffect_starts {i : Instr} {c : Control} (h0 : c.running = false)
    (h1 : (controlEffect i c).running = true) : ∃ chan arg, i = .start chan arg := by
  cases i <;> simp_all

theorem controlEffect_stops {i : Instr} {c : Control} (h0 : c.running = true)
    (h1 : (controlEffect i c).running = false) : ∃ chan arg, i = .stop chan arg := by
  cases i <;> simp_all

theorem controlEffect_setsDelay {i : Instr} {c : Control} (h : (controlEffect i c).delayCfg ≠ c.delayCfg) :
    ∃ chan, i = .setDelay chan (controlEffect i c).delayCfg := by
  cases i <;> simp_all

@[simp] theorem controlEffect_startTag (i : Instr) (c : Control) : (controlEffect i c).startTag = c.startTag := by
  cases i <;> rfl

@[simp] theorem controlEffect_qdepth (i : Instr) (c : Control) : (controlEffect i c).qdepth = c.qdepth := by
  cases i <;> rfl

/-- Where a step starts, no acceptance stands in the outputs. -/
theorem control_of_outs_nil {s : State} (h : s.outs = []) :
    s.control = ⟨s.running, s.delayCfg, s.nextTag, s.qdepth⟩ := by
  simp [State.control, acceptTags, h]

/-- A `startTag` left alone says that `next_tag` grew by the number of acceptances (R27). -/
theorem nextTag_of_startTag {t : State} {tag : Tag} (h : t.control.startTag = tag) :
    t.nextTag = tag + BitVec.ofNat 16 (acceptTags t.outs).length :=
  sub_eq_iff_eq_add.1 h

/-- Settles O50: Reset by its definition; every other event does to the control state what `controlEffect` says of a
decoded word, or nothing. -/
theorem controlStateIsWrittenOnlyByItsOperations : Obligations.ControlStateIsWrittenOnlyByItsOperations := by
  intro e s t h
  rw [stepOn_eq_react] at h
  by_cases hreset : e = .reset
  · subst hreset
    cases h
    simp [State.reset]
  have hstart := control_of_outs_nil (s := { s with inputs := [], outs := [] }) rfl
  rcases control_react hreset h with hsame | ⟨i, w, rfl, hw, hcmd⟩
  · have hc : t.control = ⟨s.running, s.delayCfg, s.nextTag, s.qdepth⟩ := hsame.trans hstart
    have hrunning : t.running = s.running := congrArg Control.running hc
    have hdelay : t.delayCfg = s.delayCfg := congrArg Control.delayCfg hc
    exact ⟨by simp +contextual [hrunning], by simp +contextual [hrunning], by simp [hdelay],
      fun _ => nextTag_of_startTag (congrArg Control.startTag hc), congrArg Control.qdepth hc⟩
  · rw [hstart] at hcmd
    have hrunning : t.running = _ := congrArg Control.running hcmd
    have hdelay : t.delayCfg = _ := congrArg Control.delayCfg hcmd
    refine ⟨fun h0 h1 => ?_, fun h0 h1 => ?_, fun h0 => ?_, fun _ => ?_, ?_⟩
    · obtain ⟨chan, arg, rfl⟩ := controlEffect_starts h0 (hrunning.symm.trans h1)
      cases hw
      exact ⟨chan, arg, rfl⟩
    · obtain ⟨chan, arg, rfl⟩ := controlEffect_stops h0 (hrunning.symm.trans h1)
      cases hw
      exact .inr ⟨chan, arg, rfl⟩
    · obtain ⟨chan, hi⟩ := controlEffect_setsDelay (hdelay ▸ h0)
      rw [← hdelay] at hi
      subst hi
      cases hw
      exact .inr ⟨chan, rfl⟩
    · exact nextTag_of_startTag ((congrArg Control.startTag hcmd).trans (controlEffect_startTag i _))
    · exact (congrArg Control.qdepth hcmd).trans (controlEffect_qdepth i _)

end Sys2Proof.Machine
end

section
/-! SUPPORT. The invariants of reachable states (R35): the reset state has them and every step keeps them. Inside a step
the receive buffer may hold a complete candidate, so I6 is kept apart: `DispatchInv` holds between any two procedures of
a step, and I6 again where the receive loop ends. -/

namespace Sys2Proof.Machine

/-! ## The invariants, in three parts -/

/-- The part of the invariants that does not speak of the phase: part of I4, I7, I8 and the request checks. -/
structure QueueInv (s : State) : Prop where
  cleared : s.running = false → s.q = [] ∧ s.rb = []
  room : ∀ n, s.qdepth.capacity = some n → s.q.length ≤ n
  tags : s.q.map Entry.tag = tagsBefore s.nextTag s.q.length
  entries : ∀ e ∈ s.q, e.valid = true

/-- The part that ties the phase to the head and the two counters: I1 to I3 and the rest of I4. -/
structure PhaseInv (s : State) : Prop where
  inFlight : s.phase = .txBusy ∨ s.phase = .wait → s.q ≠ [] ∧ s.running = true
  timeout : s.phase = .wait ↔ 0 < s.toCnt.toNat
  timeoutBound : s.toCnt.toNat ≤ 5000
  delay : s.phase = .delay ↔ 0 < s.delayCnt.toNat
  stopped : s.running = false → s.phase = .idle ∨ s.phase = .delay ∨ s.phase = .txDrain

/-- All invariants but I6. I5 is what a launch restores, so a state before a launch has the other two parts only. -/
structure DispatchInv (s : State) : Prop extends QueueInv s, PhaseInv s where
  notPostponed : s.running = true → s.phase = .idle → s.q = []

theorem stateInv_iff (s : State) : StateInv s ↔ DispatchInv s ∧ parseFrame s.rb = .notEnoughData := by
  constructor
  · intro h
    have hclear (hrun : s.running = false) : s.q = [] ∧ s.rb = [] := by
      obtain ⟨hq, hrb, _⟩ := h.stopped hrun
      exact ⟨hq, hrb⟩
    have hphase (hrun : s.running = false) : s.phase = .idle ∨ s.phase = .delay ∨ s.phase = .txDrain := by
      obtain ⟨_, _, hp⟩ := h.stopped hrun
      exact hp
    exact ⟨{ h with cleared := hclear, stopped := hphase }, h.noCandidate⟩
  · rintro ⟨h, hbuf⟩
    exact { h with
      noCandidate := hbuf
      stopped := fun hrun => ⟨(h.cleared hrun).1, (h.cleared hrun).2, h.stopped hrun⟩ }

/-- The reset values have the invariants, whatever the parameter and the pending events. -/
theorem stateInv_reset (d : Config.QDepth) (es : List Event) :
    StateInv { State.reset with qdepth := d, inputs := es } where
  inFlight := by simp [State.reset]
  timeout := by simp [State.reset]
  timeoutBound := by simp [State.reset]
  delay := by simp [State.reset]
  stopped := by simp [State.reset]
  notPostponed := by simp [State.reset]
  noCandidate := (by decide : parseFrame [] = .notEnoughData)
  room := by simp [State.reset]
  tags := rfl
  entries := by simp [State.reset]

/-- Settles O47: the reset state is the one that the Reset event gives, with the parameter's own value. -/
theorem invariantHoldsAtReset : Obligations.InvariantHoldsAtReset :=
  stateInv_reset Config.qdepth []

/-! ## Tags in the queue -/

/-- Consecutive tags are distinct within one turn of the counter (R27, R237). -/
theorem tagsBefore_nodup (t : Tag) {n : Nat} (hn : n ≤ 65536) : (tagsBefore t n).Nodup := by
  refine List.Nodup.map_on (fun i hi j hj hij => ?_) List.nodup_range
  rw [List.mem_range] at hi hj
  have hmod : BitVec.ofNat 16 (n - i) = BitVec.ofNat 16 (n - j) := sub_right_injective hij
  have hnat := congrArg BitVec.toNat hmod
  simp only [BitVec.toNat_ofNat] at hnat
  omega

/-- Settles O54: by I8 the queued tags are consecutive. -/
theorem queuedTagsAreDistinct : Obligations.QueuedTagsAreDistinct := by
  intro s hs hlen
  rw [hs.tags]
  exact tagsBefore_nodup s.nextTag hlen

/-! ## Fields the invariants do not read -/

theorem DispatchInv.frame {s : State} (h : DispatchInv s) (delayCfg : BitVec 16) (inputs : List Event)
    (outs : List Output) : DispatchInv { s with delayCfg := delayCfg, inputs := inputs, outs := outs } :=
  { h with }

theorem DispatchInv.emit {s : State} (h : DispatchInv s) (o : Output) : DispatchInv (s.emit o) :=
  h.frame s.delayCfg s.inputs (s.outs ++ [o])

/-- While running no invariant but I6 reads the receive buffer. -/
theorem DispatchInv.setRb {s : State} (h : DispatchInv s) (hrun : s.running = true) (rb : List Byte) :
    DispatchInv { s with rb := rb } :=
  { h with cleared := fun hstop => by simp [hrun] at hstop }

/-! ## Launch -/

theorem channelToBytes_of_ne_zero {c : BitVec 4} (h : c ≠ 0) : ∃ hl, channelToBytes c.toNat = some hl := by
  have hpos := BitVec.toNat_pos_of_ne_zero h
  have hlt := c.isLt
  unfold channelToBytes
  split_ifs
  · exact ⟨_, rfl⟩
  · exact ⟨_, rfl⟩
  · omega

/-- An entry that passed R140 has a frame (R148). -/
theorem encodeEntry_of_valid {e : Entry} (h : e.valid = true) : ∃ bs, encodeEntry e = some bs := by
  unfold Entry.valid at h
  unfold encodeEntry
  cases hk : e.kind <;> simp only [hk, Bool.and_eq_true, bne_iff_ne] at h ⊢
  case check => exact ⟨_, rfl⟩
  case info =>
    obtain ⟨_, hc⟩ := channelToBytes_of_ne_zero h.1
    exact ⟨_, buildInfo_of_channel hc⟩
  case send =>
    obtain ⟨_, hc⟩ := channelToBytes_of_ne_zero h.1
    exact ⟨_, buildSend_of_channel hc⟩

/-- With valid entries a launch is left undone only if there is nothing to launch. -/
theorem q_nil_of_launchFrame_none {s : State} (h : QueueInv s) (hnone : launchFrame s = none) (hrun : s.running = true)
    (hidle : s.phase = .idle) : s.q = [] := by
  cases hq : s.q with
  | nil => rfl
  | cons e rest =>
    obtain ⟨bs, hbs⟩ := encodeEntry_of_valid (h.entries e (by simp [hq]))
    have hsome := (launchFrame_some_iff s bs).2 ⟨hrun, hidle, e, rest, hq, hbs⟩
    simp [hnone] at hsome

/-- A launch restores I5 and, where it sends, gives I1 for the head. -/
theorem dispatchInv_tryLaunch {s : State} (hq : QueueInv s) (hp : PhaseInv s) : DispatchInv (tryLaunch s) := by
  rcases tryLaunch_cases s with ⟨hnone, h⟩ | ⟨bs, hsome, h⟩ <;> rw [h]
  · exact { hq, hp with notPostponed := q_nil_of_launchFrame_none hq hnone }
  · obtain ⟨hrun, hidle, e, rest, hqs, _⟩ := (launchFrame_some_iff s bs).1 hsome
    have hto := hp.timeout
    have hde := hp.delay
    exact { hq, hp with
      inFlight := fun _ => by simp [hqs, hrun]
      timeout := by simpa [hidle] using hto
      delay := by simpa [hidle] using hde
      stopped := by simp [hrun]
      notPostponed := by simp }

theorem DispatchInv.launchExactly {s : State} (h : DispatchInv s) (bs : List Byte) :
    DispatchInv (launchExactly bs s) := by
  rcases launchExactly_cases bs s with he | he <;> rw [he]
  · exact h
  · exact dispatchInv_tryLaunch h.toQueueInv h.toPhaseInv

/-! ## Delay and settlement -/

theorem phaseInv_idle {s : State} (hp : s.phase = .idle) (ht : s.toCnt = 0) (hd : s.delayCnt = 0) : PhaseInv s where
  inFlight := by simp [hp]
  timeout := by simp [hp, ht]
  timeoutBound := by simp [ht]
  delay := by simp [hp, hd]
  stopped := by simp [hp]

theorem phaseInv_delay {s : State} (hp : s.phase = .delay) (ht : s.toCnt = 0) (hd : s.delayCnt ≠ 0) : PhaseInv s where
  inFlight := by simp [hp]
  timeout := by simp [hp, ht]
  timeoutBound := by simp [ht]
  delay := ⟨fun _ => BitVec.toNat_pos_of_ne_zero hd, fun _ => hp⟩
  stopped := by simp [hp]

/-- The end of an episode, from any phase, once the timer is cleared (R167). -/
theorem dispatchInv_enterDelay {s : State} (hq : QueueInv s) (ht : s.toCnt = 0) : DispatchInv (enterDelay s) := by
  rcases enterDelay_cases s with ⟨_, h⟩ | ⟨hcfg, h⟩ <;> rw [h]
  · exact dispatchInv_tryLaunch { hq with } (phaseInv_idle rfl ht rfl)
  · have hp : PhaseInv { s with delayCnt := s.delayCfg, phase := .delay } := phaseInv_delay rfl ht hcfg
    exact { hq, hp with notPostponed := by simp }

/-- The head leaves, the rest of the queue stays as it is (R166). -/
theorem QueueInv.tail {s : State} (h : QueueInv s) : QueueInv { s with q := s.q.tail } where
  cleared hrun := by simp [h.cleared hrun]
  room n hn := by
    have hle := h.room n hn
    rw [List.length_tail]
    omega
  tags := by simp [List.map_tail, h.tags, tagsBefore_tail]
  entries e he := h.entries e (List.mem_of_mem_tail he)

theorem QueueInv.settleHead {s : State} (h : QueueInv s) (o : Settlement) : DispatchInv (settleHead o s) := by
  rcases settleHead_cases o s with ⟨_, he⟩ | ⟨e, rest, hqs, he⟩ <;> rw [he]
  · exact dispatchInv_enterDelay { h with } rfl
  · have hrest : QueueInv { s with q := rest } := by simpa [hqs] using h.tail
    exact dispatchInv_enterDelay { hrest with } rfl

/-! ## Requests -/

/-- A valid entry with the next tag joins a queue that has room (R144). -/
theorem QueueInv.push {s : State} (h : QueueInv s) (hrun : s.running = true)
    (hroom : s.qdepth.capacity ≠ some s.q.length) {e : Entry} (hv : e.valid = true) (ht : e.tag = s.nextTag) :
    QueueInv { s with nextTag := s.nextTag + 1, q := s.q ++ [e] } where
  cleared hstop := by simp [hrun] at hstop
  room n hn := by
    have hle := h.room n hn
    have hne : n ≠ s.q.length := fun heq => hroom (heq ▸ hn)
    rw [List.length_append, List.length_singleton]
    omega
  tags := by
    rw [List.length_append, List.map_append, h.tags]
    simpa [ht] using (tagsBefore_succ s.nextTag s.q.length).symm
  entries e' he' := by
    rcases List.mem_append.1 he' with hmem | hmem
    · exact h.entries e' hmem
    · rwa [List.mem_singleton.1 hmem]

/-- A longer queue changes nothing in what ties the phase to the head. -/
theorem PhaseInv.push {s : State} (h : PhaseInv s) (e : Entry) (tag : Tag) :
    PhaseInv { s with nextTag := tag, q := s.q ++ [e] } :=
  { h with inFlight := fun hp => ⟨by simp, (h.inFlight hp).2⟩ }

theorem DispatchInv.admitRequest {s : State} (h : DispatchInv s) {kind : Kind} {chan : BitVec 4} {act : Byte}
    (hv : (Entry.mk kind chan act s.nextTag).valid = true) : DispatchInv (admitRequest kind chan act s) := by
  rcases admitRequest_cases kind chan act s with ⟨_, he⟩ | ⟨_, _, he⟩ | ⟨hrun, hroom, he⟩ <;> rw [he]
  · exact h.emit _
  · exact h.emit _
  · have hq := h.toQueueInv.push hrun hroom hv rfl
    have hp := h.toPhaseInv.push ⟨kind, chan, act, s.nextTag⟩ (s.nextTag + 1)
    exact dispatchInv_tryLaunch { hq with } { hp with }

theorem entryChan_ne_zero {chan : BitVec 8} (h : legalChannel chan = true) : entryChan chan ≠ 0 := by
  simp only [legalChannel, Bool.and_eq_true, decide_eq_true_eq] at h
  intro h0
  have hnat := congrArg BitVec.toNat h0
  simp [entryChan] at hnat
  omega

/-! ## Responses -/

theorem DispatchInv.deliverConfirm {s : State} (h : DispatchInv s) (high low : Byte) :
    DispatchInv (deliverConfirm high low s) := by
  rcases deliverConfirm_cases high low s with ⟨_, he⟩ | ⟨_, he⟩ <;> rw [he]
  · exact h
  · exact h.toQueueInv.settleHead _

theorem DispatchInv.pushStatus {s : State} (h : DispatchInv s) (high low status : Byte) :
    DispatchInv (pushStatus high low status s) := by
  rcases pushStatus_cases high low status s with ⟨_, he⟩ | ⟨_, he⟩ <;> rw [he]
  · exact h
  · exact h.emit _

theorem DispatchInv.deliverAck {s : State} (h : DispatchInv s) (high low status : Byte) :
    DispatchInv (deliverAck high low status s) := by
  rcases deliverAck_cases high low status s with ⟨_, he⟩ | ⟨_, he⟩ <;> rw [he]
  · exact h.pushStatus high low status
  · exact (h.pushStatus high low status).toQueueInv.settleHead _

/-! ## START and STOP -/

/-- Starting changes `running` only, and a stopped EFD has an empty queue (R191). -/
theorem DispatchInv.start {s : State} (h : DispatchInv s) : DispatchInv (tryLaunch { s with running := true }) := by
  have hq : QueueInv { s with running := true } := { h with cleared := nofun }
  have hp : PhaseInv { s with running := true } :=
    { h with inFlight := fun hp => ⟨(h.inFlight hp).1, rfl⟩, stopped := nofun }
  exact dispatchInv_tryLaunch hq hp

/-- The invariants without a queue. -/
theorem queueInv_nil {s : State} (hq : s.q = []) (hrb : s.rb = []) : QueueInv s where
  cleared _ := ⟨hq, hrb⟩
  room := by simp [hq]
  tags := by simp [hq, tagsBefore]
  entries := by simp [hq]

/-- Clearing everything and stopping keeps the delay as it is in IDLE, DELAY and TXDRAIN, starts one in WAIT and waits
for the report in TXBUSY (R192). -/
theorem DispatchInv.stop {s : State} (h : DispatchInv s) (os : List Output) :
    DispatchInv (stopPhase { s with q := [], rb := [], toCnt := 0, running := false, outs := os }) := by
  have hq : QueueInv { s with q := [], rb := [], toCnt := 0, running := false, outs := os } := queueInv_nil rfl rfl
  have hde := h.delay
  rcases stopPhase_cases { s with q := [], rb := [], toCnt := 0, running := false, outs := os } with
    ⟨hp, he⟩ | ⟨_, he⟩ | ⟨hp, he⟩ <;> rw [he]
  · exact { hq with
      inFlight := by simp
      timeout := by simp
      timeoutBound := by simp
      delay := by simpa [show s.phase = .txBusy from hp] using hde
      stopped := by simp
      notPostponed := by simp }
  · exact dispatchInv_enterDelay hq rfl
  · exact { hq with
      inFlight := by rcases hp with hp | hp | hp <;> simp [show s.phase = _ from hp]
      timeout := by rcases hp with hp | hp | hp <;> simp [show s.phase = _ from hp]
      timeoutBound := by simp
      delay := hde
      stopped := fun _ => hp
      notPostponed := by simp }

/-! ## Every event keeps the invariants but I6 -/

theorem DispatchInv.exec {i : Instr} {s t : State} (hs : DispatchInv s) (h : exec i s = .next t) : DispatchInv t := by
  cases i with
  | easyCheck => cases h; exact hs.launchExactly _
  | easyInfo _ _ _ => cases h; exact hs.launchExactly _
  | easySend _ _ _ _ => cases h; exact hs.launchExactly _
  | easyConfirm high low _ =>
    cases h
    split
    · exact hs.deliverConfirm high low
    · exact hs
  | easyAck high low status _ =>
    cases h
    split
    · exact hs.deliverAck high low status
    · exact hs
  | nop _ _ => cases h; exact hs.emit _
  | start _ _ => cases h; exact (hs.emit .cmdOk).start
  | stop _ _ => cases h; exact hs.stop _
  | setDelay _ arg => cases h; exact hs.frame arg s.inputs _
  | check _ _ => cases h; exact hs.admitRequest rfl
  | send _ _ =>
    rcases exec_send_cases h with ⟨e, rfl⟩ | ⟨hchan, hact, rfl⟩
    · exact hs.emit _
    · exact hs.admitRequest (by simpa [Entry.valid, hact] using entryChan_ne_zero hchan)
  | info _ _ =>
    rcases exec_info_cases h with rfl | ⟨hchan, rfl⟩
    · exact hs.emit _
    · exact hs.admitRequest (by simpa [Entry.valid] using entryChan_ne_zero hchan)

theorem DispatchInv.onCmd {w : CmdWord} {s t : State} (hs : DispatchInv s) (h : onCmd w s = .next t) :
    DispatchInv t := by
  rcases onCmd_cases h with ⟨i, _, hexec⟩ | rfl
  · exact hs.exec hexec
  · exact hs.emit _

theorem DispatchInv.deliver {c : List Byte} {s t : State} (hs : DispatchInv s) (h : deliver c s = .next t) :
    DispatchInv t := by
  rcases deliver_cases h with rfl | ⟨high, low, rfl⟩ | ⟨high, low, status, rfl⟩
  · exact hs
  · exact hs.deliverConfirm high low
  · exact hs.deliverAck high low status

theorem DispatchInv.onRxByte {b : Byte} {s t : State} (hs : DispatchInv s) (h : onRxByte b s = .next t) :
    DispatchInv t := by
  rcases onRxByte_cases h with ⟨hrun, hd⟩ | ⟨_, rfl⟩
  · have hkept := drain_keeps (P := fun u => u.running = true ∧ DispatchInv u)
      (fun u hu => ⟨hu.1, hu.2.setRb hu.1 _⟩)
      (fun _ u v hu hv => ⟨(congrArg Control.running (control_deliver hv)).trans hu.1, hu.2.deliver hv⟩)
      hd ⟨hrun, hs.setRb hrun _⟩
    exact hkept.2
  · exact hs

theorem DispatchInv.onTxDone {ok : Bool} {s t : State} (hs : DispatchInv s) (h : onTxDone ok s = .next t) :
    DispatchInv t := by
  rcases onTxDone_cases h with ⟨hp, rfl⟩ | ⟨_, rfl⟩ | ⟨hp, rfl⟩ | rfl
  · have hde := hs.delay
    have hhead := hs.inFlight (.inl hp)
    exact { hs with
      inFlight := fun _ => hhead
      timeout := by simp [Config.timeoutTicks]
      timeoutBound := by simp [Config.timeoutTicks]
      delay := by simpa [hp] using hde
      stopped := by simp [hhead.2]
      notPostponed := by simp }
  · exact hs.toQueueInv.settleHead _
  · have hto := hs.timeout
    exact dispatchInv_enterDelay hs.toQueueInv (by simpa [hp, ← BitVec.toNat_inj] using hto)
  · exact hs

theorem DispatchInv.onTick {s t : State} (hs : DispatchInv s) (h : onTick s = .next t) : DispatchInv t := by
  rcases onTick_cases h with ⟨hp, rfl⟩ | ⟨hp, hc, rfl⟩ | ⟨hp, hc, rfl⟩ | ⟨hp, hc, rfl⟩ | rfl
  · exact QueueInv.settleHead { hs.toQueueInv with } _
  · have hbound := hs.timeoutBound
    have hpos : 1#13 ≤ s.toCnt := hs.timeout.1 hp
    have hsub : (s.toCnt - 1).toNat = s.toCnt.toNat - 1 := BitVec.toNat_sub_of_le hpos
    exact { hs with
      timeout := ⟨fun _ => BitVec.toNat_pos_of_ne_zero hc, fun _ => hp⟩
      timeoutBound := by rw [hsub]; exact (Nat.sub_le _ _).trans hbound }
  · have hto := hs.timeout
    have ht : s.toCnt = 0 := by simpa [hp, ← BitVec.toNat_inj] using hto
    exact dispatchInv_tryLaunch { hs.toQueueInv with } (phaseInv_idle rfl ht hc)
  · exact { hs with delay := ⟨fun _ => BitVec.toNat_pos_of_ne_zero hc, fun _ => hp⟩ }
  · exact hs

/-! ## I6: no complete candidate between steps -/

/-! Settling and delivering leave the buffer alone; an instruction leaves it alone or clears it. -/

@[simp] theorem launchExactly_rb (bs : List Byte) (s : State) : (launchExactly bs s).rb = s.rb := by
  rcases launchExactly_cases bs s with h | h <;> simp [h]

@[simp] theorem admitRequest_rb (kind : Kind) (chan : BitVec 4) (act : Byte) (s : State) :
    (admitRequest kind chan act s).rb = s.rb := by
  rcases admitRequest_cases kind chan act s with ⟨_, h⟩ | ⟨_, _, h⟩ | ⟨_, _, h⟩ <;> simp [h, enqueue]

@[simp] theorem deliverConfirm_rb (high low : Byte) (s : State) : (deliverConfirm high low s).rb = s.rb := by
  rcases deliverConfirm_cases high low s with ⟨_, h⟩ | ⟨_, h⟩ <;> simp [h]

@[simp] theorem pushStatus_rb (high low status : Byte) (s : State) : (pushStatus high low status s).rb = s.rb := by
  rcases pushStatus_cases high low status s with ⟨_, h⟩ | ⟨_, h⟩ <;> simp [h]

@[simp] theorem deliverAck_rb (high low status : Byte) (s : State) : (deliverAck high low status s).rb = s.rb := by
  rcases deliverAck_cases high low status s with ⟨_, h⟩ | ⟨_, h⟩ <;> simp [h]

@[simp] theorem stopPhase_rb (s : State) : (stopPhase s).rb = s.rb := by
  rcases stopPhase_cases s with ⟨_, h⟩ | ⟨_, h⟩ | ⟨_, h⟩ <;> simp [h]

theorem exec_rb {i : Instr} {s t : State} (h : exec i s = .next t) : t.rb = s.rb ∨ t.rb = [] := by
  cases i with
  | easyCheck => cases h; exact .inl (launchExactly_rb _ s)
  | easyInfo _ _ _ => cases h; exact .inl (launchExactly_rb _ s)
  | easySend _ _ _ _ => cases h; exact .inl (launchExactly_rb _ s)
  | easyConfirm _ _ _ => cases h; split <;> simp
  | easyAck _ _ _ _ => cases h; split <;> simp
  | nop _ _ => cases h; exact .inl rfl
  | start _ _ => cases h; exact .inl (tryLaunch_rb _)
  | stop _ _ => cases h; exact .inr (stopPhase_rb _)
  | setDelay _ _ => cases h; exact .inl rfl
  | check _ _ => cases h; exact .inl (admitRequest_rb _ _ _ s)
  | send _ _ => rcases exec_send_cases h with ⟨_, rfl⟩ | ⟨_, _, rfl⟩ <;> simp
  | info _ _ => rcases exec_info_cases h with rfl | ⟨_, rfl⟩ <;> simp

theorem deliver_rb {c : List Byte} {s t : State} (h : deliver c s = .next t) : t.rb = s.rb := by
  rcases deliver_cases h with rfl | ⟨_, _, rfl⟩ | ⟨_, _, _, rfl⟩ <;> simp

/-- A candidate is two bytes at least, so each turn makes the buffer shorter (R107, R121). -/
theorem dropCandidate_rb_length {s : State} {n : Nat} (h : s.rb.length ≤ n + 1) :
    (dropCandidate s).rb.length ≤ n := by
  simp only [dropCandidate, candidateSize, List.length_drop]
  omega

/-- As many turns as the buffer has bytes leave no complete candidate (R121). -/
theorem noCandidate_drain {n : Nat} {s t : State} (hlen : s.rb.length ≤ n) (h : drain n s = .next t) :
    parseFrame t.rb = .notEnoughData := by
  induction n generalizing s with
  | zero =>
    cases h
    rw [List.length_eq_zero_iff.1 (Nat.le_zero.1 hlen)]
    decide
  | succ n ih =>
    have hshort := dropCandidate_rb_length hlen
    rcases drain_succ_cases n s with ⟨hend, hd⟩ | ⟨_, _, u, _, hu, hd⟩ | ⟨_, hd⟩ <;> rw [hd] at h
    · cases h; exact hend
    · exact ih (by rwa [deliver_rb hu]) h
    · exact ih hshort h

theorem noCandidate_onCmd {w : CmdWord} {s t : State} (hs : parseFrame s.rb = .notEnoughData)
    (h : onCmd w s = .next t) : parseFrame t.rb = .notEnoughData := by
  rcases onCmd_cases h with ⟨_, _, hexec⟩ | rfl
  · rcases exec_rb hexec with hrb | hrb <;> rw [hrb]
    · exact hs
    · decide
  · exact hs

theorem noCandidate_onRxByte {b : Byte} {s t : State} (hs : parseFrame s.rb = .notEnoughData)
    (h : onRxByte b s = .next t) : parseFrame t.rb = .notEnoughData := by
  rcases onRxByte_cases h with ⟨_, hd⟩ | ⟨_, rfl⟩
  · exact noCandidate_drain (by simp) hd
  · exact hs

theorem onTxDone_rb {ok : Bool} {s t : State} (h : onTxDone ok s = .next t) : t.rb = s.rb := by
  rcases onTxDone_cases h with ⟨_, rfl⟩ | ⟨_, rfl⟩ | ⟨_, rfl⟩ | rfl <;> simp

theorem onTick_rb {s t : State} (h : onTick s = .next t) : t.rb = s.rb := by
  rcases onTick_cases h with ⟨_, rfl⟩ | ⟨_, _, rfl⟩ | ⟨_, _, rfl⟩ | ⟨_, _, rfl⟩ | rfl <;> simp

/-! ## Every step keeps the invariants -/

theorem stateInv_react {e : Event} {s t : State} (hs : StateInv s) (h : react e s = .next t) : StateInv t := by
  obtain ⟨hinv, hbuf⟩ := (stateInv_iff s).1 hs
  cases e with
  | reset => cases h; exact stateInv_reset s.qdepth s.inputs
  | cmd w => exact (stateInv_iff t).2 ⟨hinv.onCmd h, noCandidate_onCmd hbuf h⟩
  | rxByte b => exact (stateInv_iff t).2 ⟨hinv.onRxByte h, noCandidate_onRxByte hbuf h⟩
  | txDone ok => exact (stateInv_iff t).2 ⟨hinv.onTxDone h, by rwa [onTxDone_rb h]⟩
  | tick => exact (stateInv_iff t).2 ⟨hinv.onTick h, by rwa [onTick_rb h]⟩

/-- Settles O48: the invariants do not read the pending events and the outputs, and the reaction to every event keeps
them: I6 because the receive loop has turns enough, the others procedure by procedure. -/
theorem everyStepKeepsTheInvariant : Obligations.EveryStepKeepsTheInvariant := by
  intro s t hs h
  rcases step_cases h with rfl | ⟨e, rest, hreact⟩
  · exact { hs with }
  · exact stateInv_react (s := { s with inputs := rest, outs := [] }) { hs with } hreact

end Sys2Proof.Machine
end

section
/-! SUPPORT. A run cut into two runs, the beginnings of a candidate, and a frame received byte by byte (R61, R121,
R127). -/

namespace Sys2Proof.Machine

/-! ## Runs -/

theorem runEvents_cons_of_next {e : Event} {s u : State} (h : stepOn e s = .next u) (es : List Event) :
    runEvents (e :: es) s = (runEvents es u).map fun r => (r.1, u.outs ++ r.2) := by
  simp only [runEvents, h]

/-- A run over two lists of events goes through the state that the first list leads to. -/
theorem runEvents_append {es₁ es₂ : List Event} {s t : State} {os : List Output}
    (h : runEvents (es₁ ++ es₂) s = some (t, os)) :
    ∃ u os₁ os₂, runEvents es₁ s = some (u, os₁) ∧ runEvents es₂ u = some (t, os₂) ∧ os₁ ++ os₂ = os := by
  induction es₁ generalizing s os with
  | nil => exact ⟨s, [], os, rfl, h, rfl⟩
  | cons e es₁ ih =>
    obtain ⟨v, os', hv, hrest, rfl⟩ := runEvents_cons h
    obtain ⟨u, os₁, os₂, h₁, h₂, rfl⟩ := ih hrest
    exact ⟨u, v.outs ++ os₁, os₂, by rw [runEvents_cons_of_next hv, h₁]; rfl, h₂, List.append_assoc ..⟩

/-! ## Beginnings of a candidate -/

/-- The length byte is the second byte, so bytes behind it do not change the size (R107). -/
theorem candidateSize_append {a : List Byte} (ha : 2 ≤ a.length) (c : List Byte) :
    candidateSize (a ++ c) = candidateSize a := by
  simp only [candidateSize, List.getD_eq_getElem?_getD, List.getElem?_append_left ha]

/-- A proper beginning of a buffer that holds no more than one candidate is no complete candidate (R107, R127). -/
theorem parseFrame_of_proper_beginning {a c : List Byte} (hc : c ≠ [])
    (hone : (a ++ c).length ≤ candidateSize (a ++ c)) : parseFrame a = .notEnoughData := by
  rw [parseFrame_notEnough_iff]
  by_cases ha : 2 ≤ a.length
  · have hpos : 0 < c.length := List.length_pos_iff.2 hc
    rw [candidateSize_append ha, List.length_append] at hone
    omega
  · omega

/-- A built frame is one candidate, with nothing behind it, and parses as a frame (R106, R107). -/
theorem parseFrame_of_buildFrame {command : Byte} {payload f : List Byte} (h : buildFrame command payload = some f) :
    candidate f = f ∧ parseFrame f = .frame command payload := by
  obtain ⟨hlen, rfl⟩ := (buildFrame_some_iff command payload f).1 h
  have hy : (BitVec.ofNat 8 (payload.length + 2)).toNat = payload.length + 2 := by
    rw [BitVec.toNat_ofNat]; omega
  generalize BitVec.ofNat 8 (payload.length + 2) = y at hy ⊢
  simpa using parseFrame_of_length 0xAA y command (checksum ([0xAA, y, command] ++ payload)) payload [] hy

/-- A buffer that is its own candidate is not longer than the candidate's size. -/
theorem length_le_candidateSize {bs : List Byte} (h : candidate bs = bs) : bs.length ≤ candidateSize bs :=
  List.take_eq_self_iff _ |>.1 h

/-! ## A frame received byte by byte -/

/-- A byte that completes no candidate is kept, and nothing else happens (R121). -/
theorem stepOn_rxByte_of_notEnough {s : State} {b : Byte} (hrun : s.running = true)
    (h : parseFrame (s.rb ++ [b]) = .notEnoughData) :
    stepOn (.rxByte b) s = .next { s with rb := s.rb ++ [b], inputs := [], outs := [] } := by
  rw [stepOn_eq_react, react, onRxByte, if_pos hrun, drain_of_notEnough _ _ h]

/-- The loop delivers a buffer that is one frame, and ends with the buffer empty (R121, R123). -/
theorem drain_of_frame {n : Nat} {s t : State} {command : Byte} {payload : List Byte}
    (hparse : parseFrame s.rb = .frame command payload) (hcand : candidate s.rb = s.rb)
    (ht : deliver s.rb { s with rb := [] } = .next t) : drain (n + 1) s = .next t := by
  have hdrop : dropCandidate s = { s with rb := [] } := by
    rw [dropCandidate, List.drop_of_length_le (length_le_candidateSize hcand)]
  have hrb : t.rb = [] := deliver_rb ht
  rcases drain_succ_cases n s with ⟨hend, _⟩ | ⟨_, _, u, _, hu, hd⟩ | ⟨hbad, _⟩
  · simp [hparse] at hend
  · rw [hcand, hdrop, ht] at hu
    cases hu
    rw [hd, drain_of_notEnough n t (by rw [hrb]; decide)]
  · simp [hparse] at hbad

/-- The byte that completes a frame delivers it, in its own step (R121, R123). -/
theorem stepOn_rxByte_of_frame {s t : State} {b command : Byte} {payload : List Byte} (hrun : s.running = true)
    (hparse : parseFrame (s.rb ++ [b]) = .frame command payload) (hcand : candidate (s.rb ++ [b]) = s.rb ++ [b])
    (ht : deliver (s.rb ++ [b]) { s with rb := [], inputs := [], outs := [] } = .next t) :
    stepOn (.rxByte b) s = .next t := by
  rw [stepOn_eq_react, react, onRxByte, if_pos hrun]
  exact drain_of_frame hparse hcand ht

/-- The bytes that are missing from a frame, fed one by one: all but the last stay in the buffer, because a proper
beginning of a candidate is incomplete, and the last delivers the frame. -/
theorem runEvents_rest_of_frame {f : List Byte} {command : Byte} {payload : List Byte}
    (hparse : parseFrame f = .frame command payload) (hcand : candidate f = f) {s t : State} {bs : List Byte}
    (hf : s.rb ++ bs = f) (hbs : bs ≠ []) (hrun : s.running = true)
    (ht : deliver f { s with rb := [], inputs := [], outs := [] } = .next t) :
    runEvents (bs.map Event.rxByte) s = some (t, t.outs) := by
  induction bs generalizing s with
  | nil => exact absurd rfl hbs
  | cons b bs ih =>
    rw [List.map_cons]
    by_cases hlast : bs = []
    · subst hlast hf
      rw [runEvents_cons_of_next (stepOn_rxByte_of_frame hrun hparse hcand ht)]
      simp [runEvents]
    · rw [List.append_cons] at hf
      have hpart : parseFrame (s.rb ++ [b]) = .notEnoughData :=
        parseFrame_of_proper_beginning hlast (by rw [hf]; exact length_le_candidateSize hcand)
      have hrest : runEvents (bs.map Event.rxByte) { s with rb := s.rb ++ [b], inputs := [], outs := [] } =
          some (t, t.outs) := ih hf hlast hrun ht
      rw [runEvents_cons_of_next (stepOn_rxByte_of_notEnough hrun hpart), hrest]
      rfl

/-- Settles O43: fed to an empty buffer, by induction on the bytes still to come, the frame is delivered by its last
byte alone; and the run over the whole frame goes through the state at the cut. -/
theorem frameInAnyTwoChunksIsDeliveredOnce : Obligations.FrameInAnyTwoChunksIsDeliveredOnce := by
  intro command payload f s hbuild hrun hrb
  obtain ⟨hcand, hparse⟩ := parseFrame_of_buildFrame hbuild
  have hne : f ≠ [] := by rintro rfl; simp [parseFrame] at hparse
  obtain ⟨t, ht⟩ := deliver_next f { s with inputs := [], outs := [] }
  have hwhole : runEvents (f.map Event.rxByte) s = some (t, t.outs) :=
    runEvents_rest_of_frame hparse hcand (by rw [hrb]; rfl) hne hrun (by rw [← ht, ← hrb])
  refine ⟨t, ht, (deliver_rb ht).trans hrb, fun a c hcut => ?_⟩
  rw [← hcut, List.map_append] at hwhole
  obtain ⟨u, os, os', hfirst, hsecond, houts⟩ := runEvents_append hwhole
  exact ⟨u, os, hfirst, os', hsecond, houts⟩

end Sys2Proof.Machine
end

section
/-! SUPPORT. Decoding and encoding are inverse to each other (R79, R80, R81, R87), and the content of a valid frame as
the inbound decoder reads it (R111, R123). -/

namespace Sys2Proof.Machine

/-! ## Words -/

/-- The fields of a word, put together again under the operation code they were read with. -/
theorem word_of_opField {w : CmdWord} {op : BitVec 8} (h : opField w = op) :
    Code.word (cmdWord op (chanField w) (argField w)) = .word w := by
  rw [← h, cmdWord_fields]

theorem decodeWord_of_encode {i : Instr} {w : CmdWord} (h : encode i = .word w) : decodeWord w = .ok i := by
  cases i
  case nop | start | stop | setDelay | check | send | info => cases h; simp [decodeWord]
  all_goals cases h

theorem decodeWord_ok_iff (w : CmdWord) (i : Instr) : decodeWord w = .ok i ↔ encode i = .word w :=
  ⟨encode_of_decodeWord, decodeWord_of_encode⟩

/-! ## Frames -/

theorem decodeFrame_of_encode {i : Instr} {bs : List Byte} (h : encode i = .frame bs) : decodeFrame bs = .ok i := by
  cases i
  case easyCheck | easyInfo | easySend | easyConfirm | easyAck => cases h; rfl
  all_goals cases h

/-- A length byte is determined by the number of bytes behind the command byte (R71). -/
theorem length_byte_unique {len : Byte} {n : Nat} (h : len.toNat + 2 = n + 3) : len = BitVec.ofNat 8 (n + 1) := by
  rw [← Nat.succ.inj (Nat.succ.inj h), BitVec.ofNat_toNat, BitVec.setWidth_eq]

/-- Each row fixes the number of its bytes, and with it the length byte (R71, R73, R79). -/
theorem encode_of_decodeBody {len command : Byte} {rest : List Byte} {i : Instr} (h : decodeBody command rest = .ok i)
    (hlen : len.toNat + 2 = rest.length + 3) : encode i = .frame (0xAA :: len :: command :: rest) := by
  rw [length_byte_unique hlen]
  unfold decodeBody at h
  split_ifs at h with hc hc hc hc hc
  · split at h
    · split_ifs at h with hk
      cases h
      rw [hc, hk]
      rfl
    · cases h
  all_goals
    split at h <;> cases h
    rw [hc]
    rfl

theorem encode_of_decodeFrame {bs : List Byte} {i : Instr} (h : decodeFrame bs = .ok i) : encode i = .frame bs := by
  unfold decodeFrame at h
  split at h
  next hd len command rest =>
    split_ifs at h with hhd hlen
    rw [not_not.1 hhd]
    exact encode_of_decodeBody h (not_not.1 hlen)
  next => cases h

theorem decodeFrame_ok_iff (bs : List Byte) (i : Instr) : decodeFrame bs = .ok i ↔ encode i = .frame bs :=
  ⟨encode_of_decodeFrame, decodeFrame_of_encode⟩

/-- The inbound decoder keeps the rows of its own direction (R87). -/
theorem decodeInbound_ok_iff (bs : List Byte) (i : Instr) :
    decodeInbound bs = .ok i ↔ encode i = .frame bs ∧ i.dir = .inbound := by
  rw [← decodeFrame_ok_iff]
  constructor
  · intro h
    refine ⟨?_, decodeInbound_dir h⟩
    unfold decodeInbound at h
    split at h <;> cases h <;> assumption
  · rintro ⟨h, hdir⟩
    unfold decodeInbound
    rw [h]
    cases i
    case easyConfirm | easyAck => rfl
    all_goals cases hdir

/-! ## Both forms -/

/-- Decoding is the inverse of encoding. -/
theorem decode_ok_iff (c : Code) (i : Instr) : decode c = .ok i ↔ encode i = c := by
  cases c with
  | word w => exact decodeWord_ok_iff w i
  | frame bs => exact decodeFrame_ok_iff bs i

/-- Settles O9: the encoding of an instruction decodes to it, in both forms. -/
theorem decodeOfEncodeIsTheInstruction : Obligations.DecodeOfEncodeIsTheInstruction :=
  fun i => (decode_ok_iff (encode i) i).2 rfl

/-- Settles O10: a word is its three fields, and a frame's row fixes all its bytes but the operands. -/
theorem encodeOfDecodeIsTheCode : Obligations.EncodeOfDecodeIsTheCode :=
  fun c i => (decode_ok_iff c i).1

/-- Settles O11: a word with one of the seven codes is the encoding of the instruction named; any other code passes all
seven tests of the decoder. -/
theorem operationCodesAreTheSeven : Obligations.OperationCodesAreTheSeven := by
  intro w
  refine ⟨fun h => decodeWord_of_encode (word_of_opField h), fun h => decodeWord_of_encode (word_of_opField h),
    fun h => decodeWord_of_encode (word_of_opField h), fun h => decodeWord_of_encode (word_of_opField h),
    fun h => decodeWord_of_encode (word_of_opField h), fun h => decodeWord_of_encode (word_of_opField h),
    fun h => decodeWord_of_encode (word_of_opField h), fun h => ?_⟩
  simp only [List.mem_cons, List.not_mem_nil, or_false, not_or] at h
  simp [decodeWord, h]

/-- Settles O12: the eight bit patterns are closed, so the table decoder is evaluated on each. -/
theorem wordsOfTheSpecDecode : Obligations.WordsOfTheSpecDecode := by
  refine ⟨?_, ?_, ?_, ?_, ?_, ?_, ?_, ?_⟩ <;> decide

/-! ## Valid frames -/

/-- A list of at least four bytes as a frame is written: three bytes, a payload and a last byte. -/
theorem exists_frame_parts {bs : List Byte} (h : 4 ≤ bs.length) : ∃ x y c p k, bs = [x, y, c] ++ p ++ [k] := by
  obtain ⟨x, y, c, rest, rfl⟩ : ∃ x y c rest, bs = x :: y :: c :: rest := by
    match bs, h with
    | x :: y :: c :: rest, _ => exact ⟨x, y, c, rest, rfl⟩
  have hne : rest ≠ [] := by rintro rfl; simp at h
  exact ⟨x, y, c, rest.dropLast, rest.getLast hne, by simp [List.dropLast_append_getLast hne]⟩

theorem frame_parts_inj {x y c k x' y' c' k' : Byte} {p p' : List Byte}
    (h : [x, y, c] ++ p ++ [k] = [x', y', c'] ++ p' ++ [k']) : c = c' ∧ p = p' := by
  obtain ⟨hfront, _⟩ := List.append_inj' h rfl
  simpa using (List.append_inj hfront rfl).imp_left fun hhead => (List.cons.inj (List.cons.inj hhead).2).2

/-- A frame is judged on a whole candidate, whose length byte counts command and checksum at least (R107, R108). -/
theorem candidateSize_of_parseFrame {bs : List Byte} {command : Byte} {payload : List Byte}
    (h : parseFrame bs = .frame command payload) : 4 ≤ candidateSize bs ∧ candidateSize bs ≤ bs.length := by
  unfold parseFrame at h
  split_ifs at h with hshort hsize
  unfold judge at h
  split_ifs at h with hmalformed
  have hsame : candidateSize (candidate bs) = candidateSize bs := by
    have htwo : 2 ≤ (candidate bs).length := by
      rw [candidate, List.length_take, candidateSize]
      omega
    rw [← candidateSize_append htwo (bs.drop (candidateSize bs)), candidate, List.take_append_drop]
  unfold candidateSize at hsame hsize ⊢
  omega

/-- A valid frame is header, length byte, command, payload and checksum (R70 to R72, R107). -/
theorem candidate_of_parseFrame {bs : List Byte} {command : Byte} {payload : List Byte}
    (h : parseFrame bs = .frame command payload) :
    ∃ len : Byte, len.toNat = payload.length + 2 ∧
      candidate bs = [0xAA, len, command] ++ payload ++ [checksum ([0xAA, len, command] ++ payload)] := by
  obtain ⟨hfour, hsize⟩ := candidateSize_of_parseFrame h
  have hlen : (candidate bs).length = candidateSize bs := List.length_take_of_le hsize
  obtain ⟨x, y, c, p, k, hparts⟩ := exists_frame_parts (hlen ▸ hfour)
  have hbs : bs = [x, y, c] ++ p ++ [k] ++ bs.drop (candidateSize bs) := by
    rw [← hparts, candidate, List.take_append_drop]
  have hy : y.toNat = p.length + 2 := by
    rw [hparts, hbs] at hlen
    simp [candidateSize] at hlen
    omega
  obtain ⟨_, hparse⟩ := parseFrame_of_length x y c k p (bs.drop (candidateSize bs)) hy
  rw [← hbs, h] at hparse
  split_ifs at hparse with hx hk
  cases hparse
  exact ⟨y, hy, by rw [hparts, ← not_not.1 hx, ← not_not.1 hk]⟩

theorem decodeResponse_confirm_iff (command : Byte) (payload : List Byte) (h l : Byte) :
    decodeResponse command payload = .confirm h l ↔ command = 0x4B ∧ payload = [h, l] := by
  unfold decodeResponse
  split
  · split_ifs <;> simp_all
  · split_ifs <;> simp
  · simp_all

theorem decodeResponse_ack_iff (command : Byte) (payload : List Byte) (h l st : Byte) :
    decodeResponse command payload = .ack h l st ↔ command = 0x4D ∧ payload = [h, l, st] := by
  unfold decodeResponse
  split
  · split_ifs <;> simp
  · split_ifs <;> simp_all
  · simp_all

/-- Settles O13: a valid candidate whose content is a confirm or an ack is the encoding of that instruction, and the
inbound decoder accepts nothing but such encodings. -/
theorem inboundDecoderAgreesWithDecodeResponse : Obligations.InboundDecoderAgreesWithDecodeResponse := by
  intro bs command payload hparse
  obtain ⟨len, hlen, hcand⟩ := candidate_of_parseFrame hparse
  refine ⟨fun h l hresp => ?_, fun h l st hresp => ?_, fun hresp => ?_⟩
  · obtain ⟨rfl, rfl⟩ := (decodeResponse_confirm_iff _ _ h l).1 hresp
    obtain rfl : len = 0x04 := BitVec.eq_of_toNat_eq hlen
    exact (decodeInbound_ok_iff _ _).2 ⟨by rw [hcand]; rfl, rfl⟩
  · obtain ⟨rfl, rfl⟩ := (decodeResponse_ack_iff _ _ h l st).1 hresp
    obtain rfl : len = 0x05 := BitVec.eq_of_toNat_eq hlen
    exact (decodeInbound_ok_iff _ _).2 ⟨by rw [hcand]; rfl, rfl⟩
  · cases hdec : decodeInbound (candidate bs) with
    | error r => exact ⟨r, rfl⟩
    | ok i =>
      obtain ⟨henc, hdir⟩ := (decodeInbound_ok_iff _ i).1 hdec
      rw [hcand] at henc
      cases i <;> simp only [Instr.dir, reduceCtorEq] at hdir
      case easyConfirm h l k =>
        obtain ⟨hc, hp⟩ := frame_parts_inj (p := [h, l]) (Code.frame.inj henc)
        rw [(decodeResponse_confirm_iff _ _ h l).2 ⟨hc.symm, hp.symm⟩] at hresp
        cases hresp
      case easyAck h l st k =>
        obtain ⟨hc, hp⟩ := frame_parts_inj (p := [h, l, st]) (Code.frame.inj henc)
        rw [(decodeResponse_ack_iff _ _ h l st).2 ⟨hc.symm, hp.symm⟩] at hresp
        cases hresp

end Sys2Proof.Machine
end

section
/-! SUPPORT. The frames EFD puts on the wire: an outbound frame that is not the launchable head's is not sent, and what
a step sends is the frame of an entry that passed R140 (R84, R148, R161). -/

namespace Sys2Proof.Machine

/-! ## Outbound frames as instructions -/

theorem exec_of_encode_out {i : Instr} {bs : List Byte} (hdir : i.dir = .out) (henc : encode i = .frame bs)
    (s : State) : exec i s = .next (launchExactly bs s) := by
  cases i
  case easyCheck | easyInfo | easySend => cases henc; rfl
  all_goals cases hdir

/-- Settles O33: an outbound frame runs as a launch of exactly its bytes, and the launch sends only the head's frame. -/
theorem noOtherFrameIsSent : Obligations.NoOtherFrameIsSent := by
  intro s i bs hdir henc hother
  have hnot : launchFrame s ≠ some bs := fun h => hother ((launchFrame_some_iff s bs).1 h)
  rw [exec_of_encode_out hdir henc, launchExactly, if_neg hnot]

/-! ## The frame of a valid entry -/

/-- Reading a bitmap back gives the channel it was made for (R102, R103, R105); channels are 1 to 15. -/
theorem bytesToChannel_of_channelToBytes {c : Nat} {h l : Byte} (hc : channelToBytes c = some (h, l)) :
    bytesToChannel h l = c := by
  have hread : ∀ c : Fin 16, (channelToBytes c).all fun hl => bytesToChannel hl.1 hl.2 == c.val := by decide
  have hlt : c < 16 := by
    unfold channelToBytes at hc
    split_ifs at hc <;> omega
  simpa [hc] using hread ⟨c, hlt⟩

theorem oneHot_of_channelToBytes {c : Nat} {h l : Byte} (hc : channelToBytes c = some (h, l)) : oneHot h l = true := by
  rw [oneHot, bytesToChannel_of_channelToBytes hc, hc, beq_self_eq_true]

/-- The frame of an entry that passed R140 is a well-formed outbound instruction (R84, R148). -/
theorem wellFormed_of_encodeEntry {e : Entry} {bs : List Byte} (hv : e.valid = true) (h : encodeEntry e = some bs) :
    ∃ i : Instr, encode i = .frame bs ∧ i.dir = .out ∧ i.wellFormed = true := by
  unfold Entry.valid at hv
  unfold encodeEntry at h
  cases hk : e.kind <;> simp only [hk, Bool.and_eq_true, bne_iff_ne] at hv h
  case check =>
    cases h
    exact ⟨.easyCheck, by decide, rfl, rfl⟩
  case info =>
    obtain ⟨⟨high, low⟩, hc⟩ := channelToBytes_of_ne_zero hv.1
    rw [buildInfo_of_channel hc] at h
    cases h
    exact ⟨.easyInfo high low _, rfl, rfl, by simp [Instr.wellFormed, oneHot_of_channelToBytes hc]⟩
  case send =>
    obtain ⟨⟨high, low⟩, hc⟩ := channelToBytes_of_ne_zero hv.1
    rw [buildSend_of_channel hc] at h
    cases h
    exact ⟨.easySend high low e.act _, rfl, rfl, by simp [Instr.wellFormed, oneHot_of_channelToBytes hc, hv.2]⟩

/-! ## What a step sends -/

theorem mem_sentFrames (os : List Output) (bs : List Byte) : bs ∈ sentFrames os ↔ .txFrame bs ∈ os := by
  rw [sentFrames, List.mem_filterMap]
  constructor
  · rintro ⟨o, ho, h⟩
    cases o <;> cases h
    exact ho
  · exact fun h => ⟨_, h, rfl⟩

/-- Between any two procedures of a step: every queued entry passed R140, and every frame sent is that of such an
entry. -/
structure SendInv (s : State) : Prop where
  entries : ∀ e ∈ s.q, e.valid = true
  sent : ∀ bs ∈ sentFrames s.outs, ∃ e : Entry, e.valid = true ∧ encodeEntry e = some bs

theorem SendInv.emit {s : State} (h : SendInv s) {o : Output} (ho : sentFrames [o] = []) : SendInv (s.emit o) where
  entries := h.entries
  sent := by simpa [ho] using h.sent

theorem SendInv.tail {s : State} (h : SendInv s) : SendInv { s with q := s.q.tail } :=
  { h with entries := fun e he => h.entries e (List.mem_of_mem_tail he) }

/-- A launch sends the frame of the head, which passed R140. -/
theorem SendInv.tryLaunch {s : State} (h : SendInv s) : SendInv (tryLaunch s) := by
  rcases tryLaunch_cases s with ⟨_, ht⟩ | ⟨bs, hsome, ht⟩ <;> rw [ht]
  · exact h
  · obtain ⟨_, _, e, rest, hq, he⟩ := (launchFrame_some_iff s bs).1 hsome
    refine { h with sent := fun bs' hbs' => ?_ }
    rw [transmit_outs, sentFrames_append, List.mem_append] at hbs'
    rcases hbs' with hold | hnew
    · exact h.sent bs' hold
    · obtain rfl : bs' = bs := List.mem_singleton.1 hnew
      exact ⟨e, h.entries e (by simp [hq]), he⟩

theorem SendInv.launchExactly {s : State} (h : SendInv s) (bs : List Byte) : SendInv (launchExactly bs s) := by
  rcases launchExactly_cases bs s with he | he <;> rw [he]
  · exact h
  · exact h.tryLaunch

theorem SendInv.enterDelay {s : State} (h : SendInv s) : SendInv (enterDelay s) := by
  rcases enterDelay_cases s with ⟨_, he⟩ | ⟨_, he⟩ <;> rw [he]
  · exact SendInv.tryLaunch { h with }
  · exact { h with }

theorem SendInv.settleHead {s : State} (h : SendInv s) (o : Settlement) : SendInv (settleHead o s) := by
  rcases settleHead_cases o s with ⟨_, he⟩ | ⟨e, rest, hq, he⟩ <;> rw [he]
  · exact SendInv.enterDelay { h with }
  · have hrest : SendInv { s with q := rest } := by simpa [hq] using h.tail
    have hsettled : SendInv (State.emit { s with q := rest } (.settle e.tag o)) := hrest.emit rfl
    exact SendInv.enterDelay { hsettled with }

theorem SendInv.admitRequest {s : State} (h : SendInv s) {kind : Kind} {chan : BitVec 4} {act : Byte}
    (hv : (Entry.mk kind chan act s.nextTag).valid = true) : SendInv (admitRequest kind chan act s) := by
  rcases admitRequest_cases kind chan act s with ⟨_, he⟩ | ⟨_, _, he⟩ | ⟨_, _, he⟩ <;> rw [he]
  · exact h.emit rfl
  · exact h.emit rfl
  · have haccepted := h.emit (o := .accept s.nextTag) rfl
    refine SendInv.tryLaunch { haccepted with entries := fun e hmem => ?_ }
    rcases List.mem_append.1 hmem with hold | hnew
    · exact h.entries e hold
    · rwa [List.mem_singleton.1 hnew]

theorem SendInv.deliverConfirm {s : State} (h : SendInv s) (high low : Byte) : SendInv (deliverConfirm high low s) := by
  rcases deliverConfirm_cases high low s with ⟨_, he⟩ | ⟨_, he⟩ <;> rw [he]
  · exact h
  · exact h.settleHead _

theorem SendInv.pushStatus {s : State} (h : SendInv s) (high low status : Byte) :
    SendInv (pushStatus high low status s) := by
  rcases pushStatus_cases high low status s with ⟨_, he⟩ | ⟨_, he⟩ <;> rw [he]
  · exact h
  · exact h.emit rfl

theorem SendInv.deliverAck {s : State} (h : SendInv s) (high low status : Byte) :
    SendInv (deliverAck high low status s) := by
  rcases deliverAck_cases high low status s with ⟨_, he⟩ | ⟨_, he⟩ <;> rw [he]
  · exact h.pushStatus high low status
  · exact (h.pushStatus high low status).settleHead _

theorem SendInv.rejectAll {s : State} (h : SendInv s) : SendInv (rejectAll s) where
  entries := by simp
  sent := by
    have hnone : sentFrames (s.q.map fun e => Output.settle e.tag (.err .dispatcherStopped)) = [] := by
      simp [sentFrames]
    rw [rejectAll_outs, sentFrames_append, hnone, List.append_nil]
    exact h.sent

theorem SendInv.stopPhase {s : State} (h : SendInv s) : SendInv (stopPhase s) := by
  rcases stopPhase_cases s with ⟨_, he⟩ | ⟨_, he⟩ | ⟨_, he⟩ <;> rw [he]
  · exact { h with }
  · exact h.enterDelay
  · exact h

theorem SendInv.exec {i : Instr} {s t : State} (hs : SendInv s) (h : exec i s = .next t) : SendInv t := by
  have hok : SendInv (s.emit .cmdOk) := hs.emit rfl
  cases i with
  | easyCheck => cases h; exact hs.launchExactly _
  | easyInfo _ _ _ => cases h; exact hs.launchExactly _
  | easySend _ _ _ _ => cases h; exact hs.launchExactly _
  | easyConfirm high low _ =>
    cases h
    split
    · exact hs.deliverConfirm high low
    · exact hs
  | easyAck high low status _ =>
    cases h
    split
    · exact hs.deliverAck high low status
    · exact hs
  | nop _ _ => cases h; exact hok
  | start _ _ => cases h; exact SendInv.tryLaunch { hok with }
  | stop _ _ => cases h; exact SendInv.stopPhase { hok.rejectAll with }
  | setDelay _ _ => cases h; exact { hok with }
  | check _ _ => cases h; exact hs.admitRequest rfl
  | send _ _ =>
    rcases exec_send_cases h with ⟨e, rfl⟩ | ⟨hchan, hact, rfl⟩
    · exact hs.emit rfl
    · exact hs.admitRequest (by simpa [Entry.valid, hact] using entryChan_ne_zero hchan)
  | info _ _ =>
    rcases exec_info_cases h with rfl | ⟨hchan, rfl⟩
    · exact hs.emit rfl
    · exact hs.admitRequest (by simpa [Entry.valid] using entryChan_ne_zero hchan)

theorem SendInv.onCmd {w : CmdWord} {s t : State} (hs : SendInv s) (h : onCmd w s = .next t) : SendInv t := by
  rcases onCmd_cases h with ⟨i, _, hexec⟩ | rfl
  · exact hs.exec hexec
  · exact hs.emit rfl

theorem SendInv.deliver {c : List Byte} {s t : State} (hs : SendInv s) (h : deliver c s = .next t) : SendInv t := by
  rcases deliver_cases h with rfl | ⟨high, low, rfl⟩ | ⟨high, low, status, rfl⟩
  · exact hs
  · exact hs.deliverConfirm high low
  · exact hs.deliverAck high low status

theorem SendInv.onRxByte {b : Byte} {s t : State} (hs : SendInv s) (h : onRxByte b s = .next t) : SendInv t := by
  rcases onRxByte_cases h with ⟨_, hd⟩ | ⟨_, rfl⟩
  · exact drain_keeps (P := SendInv) (fun _ hu => { hu with }) (fun _ _ _ hu hv => hu.deliver hv) hd { hs with }
  · exact hs

theorem SendInv.onTxDone {ok : Bool} {s t : State} (hs : SendInv s) (h : onTxDone ok s = .next t) : SendInv t := by
  rcases onTxDone_cases h with ⟨_, rfl⟩ | ⟨_, rfl⟩ | ⟨_, rfl⟩ | rfl
  · exact { hs with }
  · exact hs.settleHead _
  · exact hs.enterDelay
  · exact hs

theorem SendInv.onTick {s t : State} (hs : SendInv s) (h : onTick s = .next t) : SendInv t := by
  rcases onTick_cases h with ⟨_, rfl⟩ | ⟨_, _, rfl⟩ | ⟨_, _, rfl⟩ | ⟨_, _, rfl⟩ | rfl
  · exact SendInv.settleHead { hs with } _
  · exact { hs with }
  · exact SendInv.tryLaunch { hs with }
  · exact { hs with }
  · exact hs

theorem SendInv.react {e : Event} {s t : State} (hs : SendInv s) (h : react e s = .next t) : SendInv t := by
  cases e with
  | reset => cases h; exact ⟨by simp [State.reset], by simp [State.reset, sentFrames]⟩
  | cmd w => exact hs.onCmd h
  | rxByte b => exact hs.onRxByte h
  | txDone ok => exact hs.onTxDone h
  | tick => exact hs.onTick h

/-- A step starts with no outputs, so it needs the entries of the queue only. -/
theorem sendInv_step {s t : State} (hs : ∀ e ∈ s.q, e.valid = true) (h : step s = .next t) : SendInv t := by
  have hstart (inputs : List Event) : SendInv { s with inputs := inputs, outs := [] } := ⟨hs, by simp [sentFrames]⟩
  rcases step_cases h with rfl | ⟨e, rest, hreact⟩
  · exact hstart s.inputs
  · exact (hstart rest).react hreact

/-- Settles O51: in the invariant every queued entry passed R140, and every procedure of a step sends frames of such
entries only. -/
theorem onlyLegalFramesAreSent : Obligations.OnlyLegalFramesAreSent := by
  intro s t hs h bs hbs
  obtain ⟨e, hv, he⟩ := (sendInv_step hs.entries h).sent bs ((mem_sentFrames t.outs bs).2 hbs)
  exact wellFormed_of_encodeEntry hv he

end Sys2Proof.Machine
end

section
/-! SUPPORT. The codec: the checksum and the byte sum it closes, the channel bitmaps, and what is parsed from a built
frame, whole or with one byte changed (R100 to R109). -/

namespace Sys2Proof.Machine

/-! ## Frames as they are built and parsed -/

/-- The domain and the shape of `buildFrame` (R106), with a length byte that counts command, payload and checksum. -/
theorem buildFrame_eq_parts {command : Byte} {payload f : List Byte} (h : buildFrame command payload = some f) :
    ∃ len : Byte, len.toNat = payload.length + 2 ∧
      f = [0xAA, len, command] ++ payload ++ [checksum ([0xAA, len, command] ++ payload)] := by
  obtain ⟨hlen, rfl⟩ := (buildFrame_some_iff command payload f).1 h
  exact ⟨_, by rw [BitVec.toNat_ofNat]; omega, rfl⟩

/-- Settles O7: the length byte of a built frame counts its bytes, so the candidate ends where the frame ends. -/
theorem parseOfABuiltFrameGivesItBack : Obligations.ParseOfABuiltFrameGivesItBack := by
  intro command payload rest hp
  obtain ⟨f, hf⟩ : ∃ f, buildFrame command payload = some f :=
    ⟨_, (buildFrame_some_iff command payload _).2 ⟨hp, rfl⟩⟩
  obtain ⟨len, hlen, rfl⟩ := buildFrame_eq_parts hf
  obtain ⟨hcand, hparse⟩ :=
    parseFrame_of_length 0xAA len command (checksum ([0xAA, len, command] ++ payload)) payload rest hlen
  exact ⟨_, hf, by simp, by simpa using hparse, hcand⟩

/-! ## Checksum -/

/-- The 8-bit wrap-around sum is the byte sum modulo 256. -/
theorem foldl_add_eq (bs : List Byte) (a : Byte) : bs.foldl (· + ·) a = a + BitVec.ofNat 8 (byteSum bs) := by
  induction bs generalizing a with
  | nil => simp
  | cons x bs ih =>
    rw [List.foldl_cons, ih, byteSum_cons, BitVec.ofNat_add, BitVec.ofNat_toNat, BitVec.setWidth_eq, BitVec.add_assoc]

theorem checksum_eq_neg (bs : List Byte) : checksum bs = -BitVec.ofNat 8 (byteSum bs) := by
  apply BitVec.eq_of_toNat_eq
  rw [checksum_toNat, BitVec.toNat_neg, BitVec.toNat_ofNat]

/-- Settles O1: both readings of R100 are the negation of the byte sum modulo 256. -/
theorem checksumNegatesTheByteSum : Obligations.ChecksumNegatesTheByteSum := by
  refine ⟨fun bs => ⟨checksum_toNat bs, ?_⟩, by decide⟩
  rw [checksum_eq_neg, foldl_add_eq, zero_add]

/-- A last byte is the checksum of the bytes before it exactly when it closes the sum (R101). -/
theorem eq_checksum_iff (b : List Byte) (k : Byte) : k = checksum b ↔ byteSum (b ++ [k]) % 256 = 0 := by
  have hk := k.isLt
  rw [← BitVec.toNat_inj, checksum_toNat, byteSum_append, byteSum_cons, byteSum_nil]
  omega

theorem checksum_eq_iff (b c : List Byte) : checksum b = checksum c ↔ byteSum b % 256 = byteSum c % 256 := by
  rw [← BitVec.toNat_inj, checksum_toNat, checksum_toNat]
  omega

/-- A change of one byte changes the sum by less than 256, so it is seen modulo 256 (R101). -/
theorem byteSum_set_mod_ne {b : List Byte} {j : Nat} {x : Byte} (hj : j < b.length) (hx : b.getD j 0 ≠ x) :
    byteSum (b.set j x) % 256 ≠ byteSum b % 256 := by
  have hsum := byteSum_set b j x hj
  have hne : (b.getD j 0).toNat ≠ x.toNat := fun h => hx (BitVec.eq_of_toNat_eq h)
  have hold := (b.getD j 0).isLt
  have hnew := x.isLt
  omega

theorem byteSum_perm {b c : List Byte} (h : b.Perm c) : byteSum b = byteSum c :=
  (h.map BitVec.toNat).sum_eq

/-- Settles O2: equal checksums are equal sums modulo 256, and a closing byte makes that sum 0. -/
theorem checksumClosesTheSum : Obligations.ChecksumClosesTheSum := by
  have hclosed (b : List Byte) : byteSum (b ++ [checksum b]) % 256 = 0 := (eq_checksum_iff b _).1 rfl
  refine ⟨fun b => ⟨hclosed b, ?_⟩, eq_checksum_iff, fun b j x hj hx => ?_, fun b c => (checksum_eq_iff b c).2,
    fun b c hperm => ?_⟩
  · exact (checksum_eq_iff _ []).2 (hclosed b)
  · exact fun h => byteSum_set_mod_ne hj hx ((checksum_eq_iff _ _).1 h)
  · exact (checksum_eq_iff b c).2 (by rw [byteSum_perm hperm])

/-! ## Channels and bitmaps -/

/-- A vector has one set bit exactly when its list of set bits has one element. -/
theorem setBits_eq_singleton_iff (v : BitVec 15) (i : Nat) :
    setBits v = [i] ↔ i < 15 ∧ ∀ j, j < 15 → v.getLsbD j = decide (j = i) := by
  constructor
  · intro h
    have hmem (j : Nat) : j = i ↔ j < 15 ∧ v.getLsbD j = true := by rw [← mem_setBits, h, List.mem_singleton]
    refine ⟨((hmem i).1 rfl).1, fun j hj => ?_⟩
    rw [Bool.eq_iff_iff, decide_eq_true_iff, hmem]
    exact (and_iff_right hj).symm
  · rintro ⟨hi, hbits⟩
    have hperm : (setBits v).Perm [i] := by
      rw [List.perm_ext_iff_of_nodup ((setBits_pairwise v).imp Nat.ne_of_lt) (List.nodup_singleton i)]
      intro j
      rw [mem_setBits, List.mem_singleton]
      refine ⟨fun ⟨hj, hset⟩ => by simpa [hbits j hj] using hset, ?_⟩
      rintro rfl
      exact ⟨hi, by simp [hbits j hi]⟩
    exact List.perm_singleton.1 hperm

/-- `bytesToChannel` finds a channel exactly when its bit is the only one among bits 0 to 14 (R103). -/
theorem bytesToChannel_eq_succ_iff_bit (h l : Byte) (i : Nat) :
    bytesToChannel h l = i + 1 ↔ i < 15 ∧ ∀ j, j < 15 → (h ++ l).getLsbD j = decide (j = i) := by
  rw [bytesToChannel_eq_succ_iff, setBits_eq_singleton_iff]
  refine and_congr_right fun _ => forall₂_congr fun j hj => ?_
  rw [getLsbD_bitmap15, decide_eq_true hj, Bool.true_and]

/-- Settles O4: the one set bit is found by its place, and a nonzero result names one. -/
theorem bytesToChannelReadsOneBit : Obligations.BytesToChannelReadsOneBit := by
  refine fun h l => ⟨fun i hi hbits => (bytesToChannel_eq_succ_iff_bit h l i).2 ⟨hi, hbits⟩, fun hnone => ?_⟩
  by_contra hne
  obtain ⟨i, hi⟩ := Nat.exists_eq_succ_of_ne_zero hne
  exact hnone ⟨i, (bytesToChannel_eq_succ_iff_bit h l i).1 hi⟩

theorem mem_bitmapToChannels (h l : Byte) (c : Nat) :
    c ∈ bitmapToChannels h l ↔ 1 ≤ c ∧ c ≤ 15 ∧ (h ++ l).getLsbD (c - 1) = true := by
  simp only [bitmapToChannels, List.mem_map, mem_setBits, getLsbD_bitmap15, Bool.and_eq_true, decide_eq_true_iff]
  constructor
  · rintro ⟨i, ⟨hi, -, hset⟩, rfl⟩
    exact ⟨by omega, by omega, hset⟩
  · rintro ⟨hpos, hle, hset⟩
    exact ⟨c - 1, ⟨by omega, by omega, hset⟩, by omega⟩

/-- Settles O5: the list is the rising list of set bits, each moved up by one. -/
theorem bitmapToChannelsListsTheSetBits : Obligations.BitmapToChannelsListsTheSetBits := by
  refine fun h l => ⟨?_, ?_, mem_bitmapToChannels h l, fun i hi => ?_⟩
  · exact (setBits_pairwise _).map _ fun _ _ => Nat.succ_lt_succ
  · rw [bitmapToChannels, List.length_map]
    exact (List.length_filter_le _ _).trans_eq List.length_range
  · rw [getLsbD_bitmap15, decide_eq_true hi, Bool.true_and]

/-- Channels 1 to 15 have the bitmap whose only bit is the channel's (R102), as one 16-bit value. -/
theorem channelToBytes_succ {i : Nat} (hi : i < 15) :
    ∃ h l, channelToBytes (i + 1) = some (h, l) ∧ h ++ l = BitVec.twoPow 16 i := by
  have hall : ∀ i : Fin 15, (channelToBytes (i + 1)).map (fun hl => hl.1 ++ hl.2) = some (BitVec.twoPow 16 i) := by
    decide
  obtain ⟨⟨h, l⟩, hc, hv⟩ := Option.map_eq_some_iff.1 (hall ⟨i, hi⟩)
  exact ⟨h, l, hc, hv⟩

theorem channelToBytes_isSome_iff (c : Nat) : (channelToBytes c).isSome = true ↔ 1 ≤ c ∧ c ≤ 15 := by
  unfold channelToBytes
  split_ifs <;> simp <;> omega

/-- The mask `0x7F` of the high byte takes away bit 15 of the 16-bit value. -/
theorem getLsbD_masked (h l : Byte) (j : Nat) :
    ((h &&& 0x7F) ++ l).getLsbD j = (decide (j < 15) && (h ++ l).getLsbD j) := by
  have hmask (n : Nat) : (0x7F : Byte).getLsbD n = decide (n < 7) := by
    rw [show (0x7F : Byte) = (BitVec.allOnes 7).setWidth 8 from rfl, BitVec.getLsbD_setWidth, BitVec.getLsbD_allOnes]
    by_cases hn : n < 7
    · simp [hn, show n < 8 by omega]
    · simp [hn]
  rw [BitVec.getLsbD_append, BitVec.getLsbD_append]
  split_ifs with hj
  · simp [show j < 15 by omega]
  · rw [BitVec.getLsbD_and, hmask, Bool.and_comm, decide_eq_decide.2 (show j - 8 < 7 ↔ j < 15 by omega)]

/-- A channel that was read encodes to the bitmap it was read from, without bit 15 (R105, P3). -/
theorem channelToBytes_bytesToChannel {h l : Byte} (hne : bytesToChannel h l ≠ 0) :
    channelToBytes (bytesToChannel h l) = some (h &&& 0x7F, l) := by
  obtain ⟨i, hi⟩ := Nat.exists_eq_succ_of_ne_zero hne
  obtain ⟨hlt, hbits⟩ := (bytesToChannel_eq_succ_iff_bit h l i).1 hi
  obtain ⟨h', l', hc, hv⟩ := channelToBytes_succ hlt
  have hsame : h' ++ l' = (h &&& 0x7F) ++ l := by
    rw [hv]
    apply BitVec.eq_of_getLsbD_eq
    intro j hj
    rw [getLsbD_masked, BitVec.getLsbD_twoPow]
    by_cases hj' : j < 15
    · simp [hbits j hj', hj', eq_comm]; omega
    · simp [hj']; omega
  obtain rfl : h' = h &&& 0x7F := by
    simpa only [BitVec.extractLsb'_append_eq_left] using congrArg (BitVec.extractLsb' 8 8) hsame
  obtain rfl : l' = l := by
    simpa only [BitVec.extractLsb'_append_eq_right] using congrArg (BitVec.extractLsb' 0 8) hsame
  rw [hi, hc]

/-- Settles O6: a nonzero result is the one element of the list, and encodes to the bits it was read from. -/
theorem channelFunctionsAgree : Obligations.ChannelFunctionsAgree := by
  have hone (h l : Byte) (hne : bytesToChannel h l ≠ 0) : bitmapToChannels h l = [bytesToChannel h l] := by
    obtain ⟨i, hi⟩ := Nat.exists_eq_succ_of_ne_zero hne
    rw [hi, bitmapToChannels, (bytesToChannel_eq_succ_iff h l i).1 hi, List.map_singleton]
  refine ⟨fun c h l => bytesToChannel_of_channelToBytes, fun c => (channelToBytes_isSome_iff c).symm,
    fun h l => channelToBytes_bytesToChannel, fun h l => ⟨fun hne => ?_, fun hlen hzero => ?_⟩, hone⟩
  · rw [hone h l hne, List.length_singleton]
  · rw [bitmapToChannels, List.length_map, List.length_eq_one_iff] at hlen
    obtain ⟨i, hi⟩ := hlen
    exact (bytesToChannel_eq_zero_iff h l).1 hzero i hi

/-- A shifted one is the power of two of R102. -/
theorem one_shiftLeft_eq (n : Nat) : 1#8 <<< n = BitVec.ofNat 8 (2 ^ n) := by
  apply BitVec.eq_of_toNat_eq
  simp [Nat.shiftLeft_eq]

/-- Settles O3: each range of channels is one branch of the definition. -/
theorem channelToBytesIsTheOneHotTable : Obligations.ChannelToBytesIsTheOneHotTable := by
  intro c
  refine ⟨fun h1 h8 => ?_, fun h9 h15 => ?_, fun hout => ?_, fun h l hc => ?_⟩
  · rw [channelToBytes, if_pos ⟨h1, h8⟩, one_shiftLeft_eq]
  · rw [channelToBytes, if_neg (by omega), if_pos ⟨h9, h15⟩, one_shiftLeft_eq]
  · rw [channelToBytes, if_neg (by omega), if_neg (by omega)]
  · unfold channelToBytes at hc
    split_ifs at hc with hlow hhigh <;> cases hc
    · rfl
    · rw [← BitVec.twoPow_eq, BitVec.getLsbD_twoPow]
      simp; omega

/-! ## One changed byte -/

/-- What is parsed from a list that is one whole candidate: the header is looked at first, then the sum of all its bytes
(R101, R108). -/
theorem parseFrame_of_whole {bs : List Byte} (hfour : 4 ≤ bs.length) (hsize : candidateSize bs = bs.length) :
    parseFrame bs =
      (if bs.getD 0 0 ≠ 0xAA then .badHeader
        else if byteSum bs % 256 ≠ 0 then .checksumMismatch else .frame (bs.getD 2 0) (bs.dropLast.drop 3)) := by
  obtain ⟨x, y, c, p, k, rfl⟩ := exists_frame_parts hfour
  have hy : y.toNat = p.length + 2 := by
    simp [candidateSize] at hsize
    omega
  obtain ⟨-, hparse⟩ := parseFrame_of_length x y c k p [] hy
  rw [List.append_nil] at hparse
  rw [hparse, List.dropLast_concat]
  simp only [ne_eq, eq_checksum_iff]
  simp

theorem decodeResponse_recognised {command : Byte} {payload : List Byte}
    (h : decodeResponse command payload ≠ .unrecognised) :
    command = 0x4B ∧ payload.length = 2 ∨ command = 0x4D ∧ payload.length = 3 := by
  cases hr : decodeResponse command payload with
  | confirm high low =>
    obtain ⟨rfl, rfl⟩ := (decodeResponse_confirm_iff _ _ _ _).1 hr
    exact .inl ⟨rfl, rfl⟩
  | ack high low status =>
    obtain ⟨rfl, rfl⟩ := (decodeResponse_ack_iff _ _ _ _ _).1 hr
    exact .inr ⟨rfl, rfl⟩
  | unrecognised => exact absurd hr h

/-- A recognised response has the one payload length of its command, so a shorter payload is none (R109, R111). -/
theorem decodeResponse_of_shorter {command : Byte} {p q : List Byte} (h : decodeResponse command p ≠ .unrecognised)
    (hlt : q.length < p.length) : decodeResponse command q = .unrecognised := by
  by_contra hq
  have hp := decodeResponse_recognised h
  have hq := decodeResponse_recognised hq
  rcases hp with ⟨rfl, hp⟩ | ⟨rfl, hp⟩ <;> rcases hq with ⟨hc, hq⟩ | ⟨hc, hq⟩
  · omega
  · cases hc
  · cases hc
  · omega

/-- A built frame is one whole candidate with the header in front, and its checksum closes the sum (R101, R106). -/
theorem buildFrame_whole {command : Byte} {payload f : List Byte} (h : buildFrame command payload = some f) :
    4 ≤ f.length ∧ candidateSize f = f.length ∧ f.getD 0 0 = 0xAA ∧ byteSum f % 256 = 0 := by
  obtain ⟨len, hlen, rfl⟩ := buildFrame_eq_parts h
  exact ⟨by simp, by simp [candidateSize, hlen]; omega, rfl, (eq_checksum_iff _ _).1 rfl⟩

theorem getD_set_ne {b : List Byte} {i j : Nat} (h : j ≠ i) (x : Byte) : (b.set j x).getD i 0 = b.getD i 0 := by
  rw [List.getD_eq_getElem?_getD, List.getElem?_set_ne h, List.getD_eq_getElem?_getD]

/-- A change outside the length byte leaves one whole candidate: a wrong header is found first, any other change by the
sum (R109, case (a)). -/
theorem parseFrame_of_changed_byte {command : Byte} {payload f : List Byte} {j : Nat} {x : Byte}
    (hbuild : buildFrame command payload = some f) (hj : j < f.length) (hx : f.getD j 0 ≠ x) (hplace : j ≠ 1) :
    parseFrame (f.set j x) = if j = 0 then .badHeader else .checksumMismatch := by
  obtain ⟨hfour, hsize, hhead, hsum⟩ := buildFrame_whole hbuild
  have hsize' : candidateSize (f.set j x) = (f.set j x).length := by
    rw [candidateSize, getD_set_ne hplace, ← candidateSize, hsize, List.length_set]
  have hsum' : byteSum (f.set j x) % 256 ≠ 0 := hsum ▸ byteSum_set_mod_ne hj hx
  rw [parseFrame_of_whole (by rwa [List.length_set]) hsize']
  by_cases h0 : j = 0
  · subst h0
    have hhead' : (f.set 0 x).getD 0 0 ≠ 0xAA := by
      rw [List.getD_eq_getElem?_getD, List.getElem?_set_self hj, ← hhead]
      exact hx.symm
    rw [if_pos hhead', if_pos rfl]
  · rw [getD_set_ne h0, if_neg (not_not.2 hhead), if_pos hsum', if_neg h0]

/-- A length byte below 2 is malformed as soon as a third byte is there (R108). -/
theorem parseFrame_of_malformed_length (x y c : Byte) (rest : List Byte) (hy : y.toNat < 2) :
    parseFrame (x :: y :: c :: rest) = .malformedLength := by
  have hcand : (candidate (x :: y :: c :: rest)).getD 1 0 = y := by
    simp [candidate, candidateSize, Nat.add_comm 2]
  rw [parseFrame, if_neg (by simp), if_neg (by simp [candidateSize]; omega), judge, if_pos (by rwa [hcand])]

/-- A smaller length byte ends the candidate earlier, at a payload byte that then stands for the checksum (R109,
case (c)). -/
theorem parseFrame_of_smaller_length (command k x : Byte) {payload : List Byte} {n : Nat} (hx : x.toNat = n + 2)
    (hn : n < payload.length) :
    parseFrame ([0xAA, x, command] ++ payload ++ [k]) =
      (if payload.getD n 0 = checksum ([0xAA, x, command] ++ payload.take n)
        then .frame command (payload.take n) else .checksumMismatch) := by
  have hpayload : payload = payload.take n ++ [payload.getD n 0] ++ payload.drop (n + 1) := by
    rw [List.getD_eq_getElem _ _ hn, List.take_append_getElem, List.take_append_drop]
  have hcut : [0xAA, x, command] ++ payload ++ [k] =
      [0xAA, x, command] ++ payload.take n ++ [payload.getD n 0] ++ (payload.drop (n + 1) ++ [k]) := by
    conv_lhs => rw [hpayload]
    simp only [List.append_assoc]
  have hlen : x.toNat = (payload.take n).length + 2 := by rw [List.length_take_of_le hn.le, hx]
  rw [hcut, (parseFrame_of_length 0xAA x command _ _ _ hlen).2, if_neg (not_not.2 rfl)]
  exact ite_not ..

/-- Settles O8: a change outside the length byte is seen by the header test or the sum; a changed length byte moves the
end of the candidate behind the data, below the smallest frame, or into the payload. -/
theorem oneCorruptedByteIsJudgedByItsPlace : Obligations.OneCorruptedByteIsJudgedByItsPlace := by
  intro command payload f j x hbuild hj hx
  refine ⟨?_, fun h2 => ?_, ?_⟩
  · rintro rfl
    exact parseFrame_of_changed_byte hbuild hj hx (by omega)
  · rw [parseFrame_of_changed_byte hbuild hj hx (by omega), if_neg (by omega)]
  obtain ⟨len, hlen, rfl⟩ := buildFrame_eq_parts hbuild
  generalize checksum ([0xAA, len, command] ++ payload) = k
  have hold : ([0xAA, len, command] ++ payload ++ [k]).getD 1 0 = len := rfl
  have hset : ([0xAA, len, command] ++ payload ++ [k]).set 1 x = [0xAA, x, command] ++ payload ++ [k] := rfl
  rw [hold]
  refine ⟨?_, ?_, ?_⟩
  · rintro rfl hlarger
    rw [hset, parseFrame_notEnough_iff]
    right
    simp [candidateSize]
    omega
  · rintro rfl hsmall
    rw [hset]
    exact parseFrame_of_malformed_length _ _ _ _ hsmall
  · rintro rfl hx2 hsmaller
    obtain ⟨n, hn⟩ := Nat.exists_eq_add_of_le' hx2
    have hlt : n < payload.length := by omega
    have hend : ([0xAA, len, command] ++ payload ++ [k]).getD (n + 3) 0 = payload.getD n 0 :=
      List.getD_append payload [k] 0 n hlt
    have hfront : ([0xAA, x, command] ++ payload ++ [k]).take (n + 3) = [0xAA, x, command] ++ payload.take n :=
      congrArg ([0xAA, x, command] ++ ·) (List.take_append_of_le_length hlt.le)
    rw [hset, hn, Nat.add_sub_cancel, show 1 + (n + 2) = n + 3 by omega, hend, hfront]
    exact ⟨parseFrame_of_smaller_length command k x hn hlt,
      fun hresp => decodeResponse_of_shorter hresp (by rwa [List.length_take_of_le hlt.le])⟩

end Sys2Proof.Machine
end

section
/-! SUPPORT. The receive path one byte at a time: the one candidate a byte can complete, what becomes of it, and the
running of a received confirm or ack (R120 to R128). -/

namespace Sys2Proof.Machine

/-! ## Running a received response -/

theorem received_checksum {s : State} (hrun : s.running = true) (covered : List Byte) :
    received s covered (checksum covered) = true := by
  simp [received, hrun]

theorem exec_easyConfirm_of_running {s : State} (hrun : s.running = true) (h l : Byte) :
    exec (.easyConfirm h l (checksum [0xAA, 0x04, 0x4B, h, l])) s = .next (deliverConfirm h l s) :=
  congrArg Host.Outcome.next (if_pos (received_checksum hrun _))

theorem exec_easyAck_of_running {s : State} (hrun : s.running = true) (h l st : Byte) :
    exec (.easyAck h l st (checksum [0xAA, 0x05, 0x4D, h, l, st])) s = .next (deliverAck h l st s) :=
  congrArg Host.Outcome.next (if_pos (received_checksum hrun _))

/-- An ack resolves every kind of request that a confirm does not (R148, R168). -/
theorem ackMatches_iff_not_check (s : State) :
    ackMatches s = true ↔ s.phase = .wait ∧ ∃ e rest, s.q = e :: rest ∧ e.kind ≠ .check := by
  have hkind : ∀ k : Kind, (k = .info ∨ k = .send) ↔ k ≠ .check := by
    intro k
    cases k <;> simp
  simp only [ackMatches_iff, hkind]

/-- Outside WAIT, with no request, or with a head of the other kind, there is no waiting head of the kind asked for. -/
theorem no_waiting_head {s : State} {wanted other : Entry → Prop} (hother : ∀ e, other e → ¬ wanted e)
    (h : s.phase ≠ .wait ∨ s.q = [] ∨ ∃ e rest, s.q = e :: rest ∧ other e) :
    ¬ (s.phase = .wait ∧ ∃ e rest, s.q = e :: rest ∧ wanted e) := by
  rintro ⟨hwait, e, rest, hq, hwanted⟩
  rcases h with hphase | hempty | ⟨e', rest', hq', he'⟩
  · exact hphase hwait
  · rw [hq] at hempty
    cases hempty
  · rw [hq] at hq'
    cases hq'
    exact hother e he' hwanted

/-- Settles O34: a running machine delivers a confirm with the right checksum; a match settles the head, which ends the
episode, and without a match nothing is done. -/
theorem easyConfirmSettlesAWaitingCheck : Obligations.EasyConfirmSettlesAWaitingCheck := by
  intro s h l hrun
  rw [exec_easyConfirm_of_running hrun]
  constructor
  · intro e rest hwait hq hkind
    have hmatch : confirmMatches s = true := (confirmMatches_iff s).2 ⟨hwait, e, rest, hq, hkind⟩
    rw [deliverConfirm, if_pos hmatch, settleHead_eq_episodeEnds _ hq]
    rfl
  · intro hother
    have hnone : ¬ confirmMatches s = true := mt (confirmMatches_iff s).1 (no_waiting_head (fun _ h => h) hother)
    rw [deliverConfirm, if_neg hnone]

/-- Settles O35: a running machine pushes the status of an ack with the right checksum first; a match then settles the
head, which ends the episode with both outputs, and without a match the push is all. -/
theorem easyAckPushesStatusAndSettles : Obligations.EasyAckPushesStatusAndSettles := by
  intro s h l st hrun
  rw [exec_easyAck_of_running hrun]
  constructor
  · intro e rest hwait hq hkind
    have hmatch : ackMatches s = true := (ackMatches_iff_not_check s).2 ⟨hwait, e, rest, hq, hkind⟩
    have hq' : State.q { s with outs := s.outs ++ statusOutputs h l st } = e :: rest := hq
    rw [deliverAck, if_pos hmatch, pushStatus_eq_statusOutputs, settleHead_eq_episodeEnds .done hq',
      episodeEnds_outs_append]
  · intro hother
    have hnone : ¬ ackMatches s = true :=
      mt (ackMatches_iff_not_check s).1 (no_waiting_head (fun _ hcheck hne => hne hcheck) hother)
    rw [deliverAck, if_neg hnone, pushStatus_eq_statusOutputs]

/-! ## The candidate that a byte completes -/

theorem candidate_of_whole {bs : List Byte} (h : candidateSize bs = bs.length) : candidate bs = bs :=
  List.take_of_length_le h.ge

/-- A completing byte is the last of the candidate, or the third byte behind a two-byte candidate: `parseFrame` does not
judge before three bytes are there, so only that candidate can be complete and still wait (R107, R128). -/
theorem candidateSize_of_completed {rb : List Byte} {b : Byte} (hpart : parseFrame rb = .notEnoughData)
    (hdone : parseFrame (rb ++ [b]) ≠ .notEnoughData) :
    candidateSize (rb ++ [b]) = (rb ++ [b]).length ∨
      (rb ++ [b]).length = 3 ∧ candidateSize (rb ++ [b]) = 2 := by
  rw [parseFrame_notEnough_iff] at hpart
  rw [ne_eq, parseFrame_notEnough_iff, not_or] at hdone
  obtain ⟨hthree, hsize⟩ := hdone
  rw [List.length_append, List.length_singleton] at hthree hsize ⊢
  have htwo : 2 ≤ rb.length := by omega
  rw [candidateSize_append htwo] at hsize ⊢
  have hleast : 2 ≤ candidateSize rb := Nat.le_add_right 2 _
  omega

/-- A candidate of two bytes is malformed, so a byte that completes a frame makes it the whole buffer (R108, R128). -/
theorem candidate_of_completed_frame {rb : List Byte} {b command : Byte} {payload : List Byte}
    (hpart : parseFrame rb = .notEnoughData) (hframe : parseFrame (rb ++ [b]) = .frame command payload) :
    candidate (rb ++ [b]) = rb ++ [b] := by
  obtain ⟨hfour, _⟩ := candidateSize_of_parseFrame hframe
  rcases candidateSize_of_completed (b := b) hpart (by simp [hframe]) with hwhole | ⟨_, htwo⟩
  · exact candidate_of_whole hwhole
  · omega

/-- Behind the completed candidate one byte at most is left (R128). -/
theorem parseFrame_behind_completed {rb : List Byte} {b : Byte} (hpart : parseFrame rb = .notEnoughData)
    (hdone : parseFrame (rb ++ [b]) ≠ .notEnoughData) :
    parseFrame ((rb ++ [b]).drop (candidateSize (rb ++ [b]))) = .notEnoughData := by
  have hsize := candidateSize_of_completed hpart hdone
  rw [parseFrame_notEnough_iff, List.length_drop]
  omega

/-- Settles O38: by the size of the candidate, which is the buffer's length, or 2 where the length byte is 0. -/
theorem oneCandidateAByte : Obligations.OneCandidateAByte := by
  intro rb b hpart hdone
  refine ⟨?_, parseFrame_behind_completed hpart hdone, fun _ _ => candidate_of_completed_frame hpart⟩
  refine (candidateSize_of_completed hpart hdone).imp candidate_of_whole (And.imp_right fun htwo => ?_)
  rw [candidateSize, Nat.add_eq_left] at htwo
  exact BitVec.eq_of_toNat_eq htwo

/-! ## The step of a received byte -/

/-- Settles O37: the reaction to a byte is nothing while stopped. -/
theorem bytesAreDiscardedWhileStopped : Obligations.BytesAreDiscardedWhileStopped := by
  intro s b rest hin hstop
  rw [step_of_inputs hin, react, onRxByte, if_neg (by simp [hstop])]

/-- While running, the step of a byte appends it and runs the loop of R121. -/
theorem step_rxByte_of_running {s : State} {b : Byte} {rest : List Event} (hin : s.inputs = .rxByte b :: rest)
    (hrun : s.running = true) :
    step s = drain (s.rb.length + 1) { s with rb := s.rb ++ [b], inputs := rest, outs := [] } := by
  rw [step_of_inputs hin, react, onRxByte, if_pos hrun]

/-- The loop drops a corrupt candidate and ends, if no other is complete behind it (R122). -/
theorem drain_of_corrupt {n : Nat} {s : State}
    (hbad : parseFrame s.rb ∈ [.malformedLength, .badHeader, .checksumMismatch])
    (hrest : parseFrame (dropCandidate s).rb = .notEnoughData) : drain (n + 1) s = .next (dropCandidate s) := by
  rcases drain_succ_cases n s with ⟨hend, _⟩ | ⟨_, _, _, hframe, _⟩ | ⟨_, hd⟩
  · simp [hend] at hbad
  · simp [hframe] at hbad
  · rw [hd, drain_of_notEnough n _ hrest]

/-- A valid frame that is no recognised response has no effect (R126). -/
theorem deliver_of_unrecognised {bs : List Byte} {command : Byte} {payload : List Byte}
    (hframe : parseFrame bs = .frame command payload) (hresp : decodeResponse command payload = .unrecognised)
    (s : State) : deliver (candidate bs) s = .next s := by
  obtain ⟨_, _, hreject⟩ := inboundDecoderAgreesWithDecodeResponse bs command payload hframe
  obtain ⟨r, hr⟩ := hreject hresp
  simp only [deliver, hr]

/-- Settles O39: the loop ends at once, drops a corrupt candidate, or delivers the whole buffer as a frame that has no
effect; in the last two cases nothing complete is left. -/
theorem incompleteStaysCorruptGoesSilently : Obligations.IncompleteStaysCorruptGoesSilently := by
  intro s b rest hin hrun hpart
  rw [step_rxByte_of_running hin hrun]
  refine ⟨fun hend => drain_of_notEnough _ _ hend, fun hbad => ?_, fun command payload hframe hresp => ?_⟩
  · have hdone : parseFrame (s.rb ++ [b]) ≠ .notEnoughData := by
      intro hend
      simp [hend] at hbad
    exact drain_of_corrupt hbad (parseFrame_behind_completed hpart hdone)
  · have hcand := candidate_of_completed_frame hpart hframe
    refine drain_of_frame hframe hcand ?_
    rw [← hcand]
    exact deliver_of_unrecognised hframe hresp _

/-! ## A well-formed inbound frame -/

/-- The encoding of an inbound instruction with the right checksum is a built frame (R79, R106). -/
theorem buildFrame_of_encode_inbound {i : Instr} {bs : List Byte} (hdir : i.dir = .inbound)
    (hwf : i.wellFormed = true) (henc : encode i = .frame bs) :
    ∃ command payload, buildFrame command payload = some bs := by
  cases i <;> simp only [Instr.dir, reduceCtorEq] at hdir
  case easyConfirm h l k =>
    obtain rfl : k = checksum [0xAA, 0x04, 0x4B, h, l] := by simpa [Instr.wellFormed] using hwf
    exact ⟨0x4B, [h, l], congrArg some (Code.frame.inj henc)⟩
  case easyAck h l st k =>
    obtain rfl : k = checksum [0xAA, 0x05, 0x4D, h, l, st] := by simpa [Instr.wellFormed] using hwf
    exact ⟨0x4D, [h, l, st], congrArg some (Code.frame.inj henc)⟩

/-- The encoding of an inbound instruction is delivered as that instruction (R123). -/
theorem deliver_of_encode {i : Instr} {bs : List Byte} (hdir : i.dir = .inbound) (henc : encode i = .frame bs)
    (s : State) : deliver bs s = exec i s := by
  simp only [deliver, (decodeInbound_ok_iff bs i).2 ⟨henc, hdir⟩]

/-- Settles O17: the whole buffer is a built frame, so the loop delivers it, as the instruction it encodes. -/
theorem stepRunsTheReceivedFrame : Obligations.StepRunsTheReceivedFrame := by
  intro s b rest i hin hrun _ hdir hwf henc
  obtain ⟨command, payload, hbuild⟩ := buildFrame_of_encode_inbound hdir hwf henc
  obtain ⟨hcand, hframe⟩ := parseFrame_of_buildFrame hbuild
  obtain ⟨t, ht⟩ := exec_next i { s with rb := [], inputs := rest, outs := [] }
  rw [step_rxByte_of_running hin hrun, ht]
  exact drain_of_frame hframe hcand ((deliver_of_encode hdir henc _).trans ht)

end Sys2Proof.Machine
end

section
/-! SUPPORT. The request operations: their checks in order, the enqueue with the launch behind it, and the outbound
frame of the head as an instruction (R140 to R148, R161, R173). -/

namespace Sys2Proof.Machine

/-! ## The frame of an entry -/

theorem encodeEntry_of_check {e : Entry} (hkind : e.kind = .check) :
    encodeEntry e = some [0xAA, 0x02, 0x4A, 0x0A] := by
  rw [encodeEntry, hkind]
  rfl

theorem encodeEntry_of_info {e : Entry} {h l : Byte} (hkind : e.kind = .info)
    (hc : channelToBytes e.chan.toNat = some (h, l)) :
    encodeEntry e = some [0xAA, 0x04, 0x4E, h, l, checksum [0xAA, 0x04, 0x4E, h, l]] := by
  rw [encodeEntry, hkind]
  exact buildInfo_of_channel hc

theorem encodeEntry_of_send {e : Entry} {h l : Byte} (hkind : e.kind = .send)
    (hc : channelToBytes e.chan.toNat = some (h, l)) :
    encodeEntry e = some [0xAA, 0x05, 0x4C, h, l, e.act, checksum [0xAA, 0x05, 0x4C, h, l, e.act]] := by
  rw [encodeEntry, hkind]
  exact buildSend_of_channel hc

theorem getD_two_of_buildFrame {command : Byte} {payload f : List Byte} (h : buildFrame command payload = some f) :
    f.getD 2 0 = command := by
  obtain ⟨_, rfl⟩ := (buildFrame_some_iff _ _ _).1 h
  rfl

/-- The command byte of an entry's frame is that of an outbound row (R73, R148). -/
theorem command_of_encodeEntry {e : Entry} {bs : List Byte} (h : encodeEntry e = some bs) :
    bs.getD 2 0 ∈ [0x4A#8, 0x4E#8, 0x4C#8] := by
  unfold encodeEntry at h
  cases hkind : e.kind <;> simp only [hkind] at h
  case check => rw [getD_two_of_buildFrame h]; decide
  case info =>
    obtain ⟨_, _, hbuild⟩ := Option.bind_eq_some_iff.1 h
    rw [getD_two_of_buildFrame hbuild]
    decide
  case send =>
    obtain ⟨_, _, hbuild⟩ := Option.bind_eq_some_iff.1 h
    rw [getD_two_of_buildFrame hbuild]
    decide

/-! ## The frame of the head as an instruction -/

theorem dir_out_of_command {i : Instr} {bs : List Byte} (henc : encode i = .frame bs)
    (hcommand : bs.getD 2 0 ∈ [0x4A#8, 0x4E#8, 0x4C#8]) : i.dir = .out := by
  cases i <;> cases henc
  case easyCheck | easyInfo | easySend => rfl
  case easyConfirm | easyAck => simp at hcommand

/-- The instruction whose encoding is the frame a launch would send runs as that launch (R145 to R148, R161). -/
theorem exec_of_launchFrame {i : Instr} {bs : List Byte} {s : State} (hlaunch : launchFrame s = some bs)
    (henc : encode i = .frame bs) : exec i s = .next (transmit bs s) := by
  obtain ⟨_, _, _, _, _, hbytes⟩ := (launchFrame_some_iff s bs).1 hlaunch
  have hdir : i.dir = .out := dir_out_of_command henc (command_of_encodeEntry hbytes)
  rw [exec_of_encode_out hdir henc, launchExactly, if_pos hlaunch]

/-- The same from the head of the queue. -/
theorem exec_of_head {i : Instr} {bs : List Byte} {s : State} {e : Entry} {rest : List Entry} (hrun : s.running = true)
    (hphase : s.phase = .idle) (hq : s.q = e :: rest) (hbytes : encodeEntry e = some bs)
    (henc : encode i = .frame bs) : exec i s = .next (transmit bs s) :=
  exec_of_launchFrame ((launchFrame_some_iff s bs).2 ⟨hrun, hphase, e, rest, hq, hbytes⟩) henc

/-- The tick that ends the delay launches in IDLE (R173). -/
theorem onTick_of_delay_over {s : State} (hphase : s.phase = .delay) (hcnt : s.delayCnt = 1) :
    onTick s = .next (tryLaunch { s with delayCnt := 0, phase := .idle }) := by
  simp [onTick, hphase, hcnt]

/-- Settles O18: the step of that tick is a launch in IDLE, and so is the head's frame as an instruction. -/
theorem stepRunsTheLaunchedFrame : Obligations.StepRunsTheLaunchedFrame := by
  intro s rest e more bs i hin hrun hphase hcnt hq hbytes henc
  have hlaunch : launchFrame { s with phase := .idle, delayCnt := 0, inputs := rest, outs := [] } = some bs :=
    (launchFrame_some_iff _ bs).2 ⟨hrun, rfl, e, more, hq, hbytes⟩
  have htick : onTick { s with inputs := rest, outs := [] } = _ := onTick_of_delay_over hphase hcnt
  rw [step_of_inputs hin, react, htick, exec_of_launchFrame hlaunch henc, tryLaunch_of_some hlaunch]

/-- Settles O30: the frame of a CHECK head is the encoding of `easy_check`. -/
theorem easyCheckIsSentForACheckHead : Obligations.EasyCheckIsSentForACheckHead := by
  intro s e rest hrun hphase hq hkind
  exact exec_of_head hrun hphase hq (encodeEntry_of_check hkind) rfl

/-- Settles O31: the frame of an INFO head is the encoding of `easy_info` with the channel's bitmap. -/
theorem easyInfoIsSentForAnInfoHead : Obligations.EasyInfoIsSentForAnInfoHead := by
  intro s e rest h l hrun hphase hq hkind hc
  exact exec_of_head hrun hphase hq (encodeEntry_of_info hkind hc) rfl

/-- Settles O32: the frame of a SEND head is the encoding of `easy_send` with the channel's bitmap and the action. -/
theorem easySendIsSentForASendHead : Obligations.EasySendIsSentForASendHead := by
  intro s e rest h l hrun hphase hq hkind hc
  exact exec_of_head hrun hphase hq (encodeEntry_of_send hkind hc) rfl

/-! ## The operands of a request -/

theorem legalChannel_iff (chan : BitVec 8) : legalChannel chan = true ↔ 1 ≤ chan.toNat ∧ chan.toNat ≤ 15 := by
  rw [legalChannel, Bool.and_eq_true, decide_eq_true_eq, decide_eq_true_eq]

theorem legalAction_iff (a : Byte) : legalAction a = true ↔ a ∈ [0x10#8, 0x20#8, 0x24#8, 0x40#8, 0x44#8] := by
  simp [legalAction, or_assoc]

/-- A channel with a bitmap passes the first check of R140. -/
theorem legalChannel_of_channelToBytes {chan : BitVec 8} {h l : Byte} (hc : channelToBytes chan.toNat = some (h, l)) :
    legalChannel chan = true :=
  (legalChannel_iff chan).2 ((channelToBytes_isSome_iff _).1 (Option.isSome_of_eq_some hc))

/-- The 4-bit field of an entry holds every legal channel (R28, R56). -/
theorem entryChan_toNat {chan : BitVec 8} (h : legalChannel chan = true) : (entryChan chan).toNat = chan.toNat := by
  obtain ⟨_, hle⟩ := (legalChannel_iff chan).1 h
  exact (BitVec.toNat_setWidth 4 chan).trans (Nat.mod_eq_of_lt (by omega))

/-! ## The checks in order -/

theorem exec_info_of_illegal_channel {chan : BitVec 8} (h : ¬ legalChannel chan = true) (arg : BitVec 16) (s : State) :
    exec (.info chan arg) s = .next (refuse .invalidChannel s) :=
  congrArg Host.Outcome.next (if_pos (Bool.eq_false_of_not_eq_true h))

theorem exec_send_of_illegal_channel {chan : BitVec 8} (h : ¬ legalChannel chan = true) (arg : BitVec 16) (s : State) :
    exec (.send chan arg) s = .next (refuse .invalidChannel s) :=
  congrArg Host.Outcome.next (if_pos (Bool.eq_false_of_not_eq_true h))

theorem exec_send_of_illegal_action {chan : BitVec 8} {arg : BitVec 16} (hchan : legalChannel chan = true)
    (hact : ¬ legalAction (actionOf arg) = true) (s : State) :
    exec (.send chan arg) s = .next (refuse .invalidAction s) := by
  simp [exec, execSend, hchan, hact]

theorem exec_info_of_legal {chan : BitVec 8} (h : legalChannel chan = true) (arg : BitVec 16) (s : State) :
    exec (.info chan arg) s = .next (admitRequest .info (entryChan chan) 0 s) := by
  simp [exec, execInfo, h]

theorem exec_send_of_legal {chan : BitVec 8} {arg : BitVec 16} (hchan : legalChannel chan = true)
    (hact : legalAction (actionOf arg) = true) (s : State) :
    exec (.send chan arg) s = .next (admitRequest .send (entryChan chan) (actionOf arg) s) := by
  simp [exec, execSend, hchan, hact]

theorem admitRequest_of_stopped {s : State} (hstop : s.running = false) (kind : Kind) (chan : BitVec 4) (act : Byte) :
    admitRequest kind chan act s = refuse .dispatcherStopped s :=
  if_pos hstop

theorem admitRequest_of_full {s : State} (hrun : s.running = true) (hfull : s.qdepth.capacity = some s.q.length)
    (kind : Kind) (chan : BitVec 4) (act : Byte) : admitRequest kind chan act s = refuse .queueFull s := by
  rw [admitRequest, if_neg (by simp [hrun]), if_pos ((queueFull_iff _ _).2 hfull)]

theorem admitRequest_of_room {s : State} (hrun : s.running = true) (hroom : s.qdepth.capacity ≠ some s.q.length)
    (kind : Kind) (chan : BitVec 4) (act : Byte) : admitRequest kind chan act s = enqueue kind chan act s := by
  rw [admitRequest, if_neg (by simp [hrun]), if_neg (mt (queueFull_iff _ _).1 hroom)]

/-- Settles O26: each request with legal operands comes to the two checks that do not depend on the word. -/
theorem requestChecksInOrder : Obligations.RequestChecksInOrder := by
  intro chan arg s
  refine ⟨fun hchan => ?_, fun hlow hhigh hact => ?_, fun i hi => ?_⟩
  · have hillegal : ¬ legalChannel chan = true := mt (legalChannel_iff chan).1 hchan
    exact ⟨exec_info_of_illegal_channel hillegal arg s, exec_send_of_illegal_channel hillegal arg s⟩
  · exact exec_send_of_illegal_action ((legalChannel_iff chan).2 ⟨hlow, hhigh⟩) (mt (legalAction_iff _).1 hact) s
  · have hadmit : ∃ kind c act, exec i s = .next (admitRequest kind c act s) := by
      rcases hi with rfl | ⟨hlow, hhigh, rfl | ⟨rfl, hact⟩⟩
      · exact ⟨_, _, _, rfl⟩
      · exact ⟨_, _, _, exec_info_of_legal ((legalChannel_iff chan).2 ⟨hlow, hhigh⟩) arg s⟩
      · exact ⟨_, _, _, exec_send_of_legal ((legalChannel_iff chan).2 ⟨hlow, hhigh⟩) ((legalAction_iff _).2 hact) s⟩
    obtain ⟨kind, c, act, hexec⟩ := hadmit
    rw [hexec]
    exact ⟨fun hstop => congrArg _ (admitRequest_of_stopped hstop kind c act),
      fun hrun hfull => congrArg _ (admitRequest_of_full hrun hfull kind c act)⟩

/-! ## Acceptance and launch -/

/-- The state after a request was accepted: the entry is appended with the next tag, and in IDLE its frame `bs` is sent
(R144, R161). -/
def accepted (kind : Kind) (chan : BitVec 4) (act : Byte) (bs : List Byte) (s : State) : State :=
  { s with
    nextTag := s.nextTag + 1
    q := s.q ++ [{ kind := kind, chan := chan, act := act, tag := s.nextTag }]
    phase := if s.phase = .idle then .txBusy else s.phase
    outs := s.outs ++ .accept s.nextTag :: (if s.phase = .idle then [.txFrame bs] else []) }

/-- With nothing queued in IDLE (I5 of R35) the new entry is the head there, so its own frame is what is launched. -/
theorem enqueue_eq_accepted {kind : Kind} {chan : BitVec 4} {act : Byte} {bs : List Byte} {s : State}
    (hrun : s.running = true) (hidle : s.phase = .idle → s.q = [])
    (hbytes : encodeEntry { kind := kind, chan := chan, act := act, tag := s.nextTag } = some bs) :
    enqueue kind chan act s = accepted kind chan act bs s := by
  unfold enqueue accepted
  by_cases hphase : s.phase = .idle
  · have hhead : s.q ++ [Entry.mk kind chan act s.nextTag] = [Entry.mk kind chan act s.nextTag] := by
      rw [hidle hphase, List.nil_append]
    rw [tryLaunch_of_some (bs := bs)]
    · simp [transmit, State.emit, hphase]
    · exact (launchFrame_some_iff _ bs).2 ⟨hrun, hphase, _, [], hhead, hbytes⟩
  · rw [tryLaunch_of_none]
    · simp [State.emit, hphase]
    · exact launchFrame_phase hphase

theorem admitRequest_eq_accepted {kind : Kind} {chan : BitVec 4} {act : Byte} {bs : List Byte} {s : State}
    (hrun : s.running = true) (hroom : s.qdepth.capacity ≠ some s.q.length) (hidle : s.phase = .idle → s.q = [])
    (hbytes : encodeEntry { kind := kind, chan := chan, act := act, tag := s.nextTag } = some bs) :
    admitRequest kind chan act s = accepted kind chan act bs s :=
  (admitRequest_of_room hrun hroom kind chan act).trans (enqueue_eq_accepted hrun hidle hbytes)

/-- Settles O27: a CHECK has no operand to check, and its frame is the constant one. -/
theorem checkIsAcceptedAndLaunched : Obligations.CheckIsAcceptedAndLaunched := by
  intro chan arg s hrun hroom hidle
  exact congrArg Host.Outcome.next (admitRequest_eq_accepted hrun hroom hidle (encodeEntry_of_check rfl))

/-- Settles O28: a channel with a bitmap is legal, and the entry's field gives the same bitmap. -/
theorem infoIsAcceptedAndLaunched : Obligations.InfoIsAcceptedAndLaunched := by
  intro chan arg s h l hrun hroom hidle hc
  have hchan : legalChannel chan = true := legalChannel_of_channelToBytes hc
  rw [← entryChan_toNat hchan] at hc
  have hbytes := encodeEntry_of_info (e := ⟨.info, entryChan chan, 0, s.nextTag⟩) rfl hc
  rw [exec_info_of_legal hchan, admitRequest_eq_accepted hrun hroom hidle hbytes]
  rfl

/-- Settles O29: as for INFO, with the action byte checked and sent. -/
theorem sendIsAcceptedAndLaunched : Obligations.SendIsAcceptedAndLaunched := by
  intro chan arg s h l act hrun hroom hidle hc harg hact
  have hchan : legalChannel chan = true := legalChannel_of_channelToBytes hc
  rw [← entryChan_toNat hchan] at hc
  subst harg
  have hbytes := encodeEntry_of_send (e := ⟨.send, entryChan chan, actionOf arg, s.nextTag⟩) rfl hc
  rw [exec_send_of_legal hchan ((legalAction_iff _).2 hact), admitRequest_eq_accepted hrun hroom hidle hbytes]
  rfl

end Sys2Proof.Machine
end

section
/-! SUPPORT. The state in which a reaction begins, and the reactions to a transport report and to a tick, one equation
per phase (R162 to R165, R172 to R174). -/

namespace Sys2Proof.Machine

/-! ## Where a reaction begins -/

/-- The state in which the reaction to an event begins: the event is taken, `rest` is left, nothing is emitted (R9). -/
def State.taking (s : State) (rest : List Event) : State := { s with inputs := rest, outs := [] }

theorem step_eq_react_taking {s : State} {e : Event} {rest : List Event} (h : s.inputs = e :: rest) :
    step s = react e (s.taking rest) := step_of_inputs h

@[simp] theorem taking_q (s : State) (rest : List Event) : (s.taking rest).q = s.q := rfl
@[simp] theorem taking_outs (s : State) (rest : List Event) : (s.taking rest).outs = [] := rfl

/-! ## Transport reports -/

theorem onTxDone_of_written {s : State} (hp : s.phase = .txBusy) :
    onTxDone true s = .next { s with phase := .wait, toCnt := 5000 } := by
  simp only [onTxDone, hp]
  rfl

theorem onTxDone_of_failed {s : State} (hp : s.phase = .txBusy) :
    onTxDone false s = .next (settleHead (.err .transportWriteFailed) s) := by
  simp only [onTxDone, hp]
  rfl

theorem onTxDone_of_drain {s : State} (hp : s.phase = .txDrain) (ok : Bool) : onTxDone ok s = .next (enterDelay s) := by
  simp only [onTxDone, hp]

theorem onTxDone_of_stray {s : State} (hp : s.phase = .idle ∨ s.phase = .wait ∨ s.phase = .delay) (ok : Bool) :
    onTxDone ok s = .next s := by
  rcases hp with hp | hp | hp <;> simp only [onTxDone, hp]

/-- Settles O44: one equation of `onTxDone` per clause; settling the head, and starting the delay with the timer
cleared, are ends of an episode. -/
theorem txDoneByPhase : Obligations.TxDoneByPhase := by
  intro s ok rest hin
  rw [step_eq_react_taking hin, react]
  refine ⟨fun hp hok => ?_, fun e more hp hok hq => ?_, fun hp hcnt => ?_, fun hp => ?_⟩
  · rw [hok]
    exact onTxDone_of_written (s := s.taking rest) hp
  · rw [hok, onTxDone_of_failed (s := s.taking rest) hp]
    exact congrArg _ (settleHead_eq_episodeEnds (s := s.taking rest) _ hq)
  · rw [onTxDone_of_drain (s := s.taking rest) hp]
    exact congrArg _ (enterDelay_eq_episodeEnds (s.taking rest) s.q [] hcnt)
  · exact onTxDone_of_stray (s := s.taking rest) hp ok

/-! ## Ticks -/

theorem onTick_of_waiting {s : State} (hp : s.phase = .wait) (hc : s.toCnt ≠ 1) :
    onTick s = .next { s with toCnt := s.toCnt - 1 } := by
  simp only [onTick, hp]
  exact if_neg (sub_ne_zero.2 hc)

/-- The timer is cleared with the settlement, so the tick's own decrement of it leaves no trace (R166, R172). -/
theorem onTick_of_timeout {s : State} (hp : s.phase = .wait) (hc : s.toCnt = 1) :
    onTick s = .next (settleHead (.err .responseTimeout) s) := by
  simp only [onTick, hp]
  exact if_pos (sub_eq_zero.2 hc)

theorem onTick_of_delaying {s : State} (hp : s.phase = .delay) (hc : s.delayCnt ≠ 1) :
    onTick s = .next { s with delayCnt := s.delayCnt - 1 } := by
  simp only [onTick, hp]
  exact if_neg (sub_ne_zero.2 hc)

/-- With a request queued while running, the end of the delay sends its frame (R161, R173). -/
theorem onTick_of_delay_over_sends {s : State} {e : Entry} {more : List Entry} {bs : List Byte}
    (hp : s.phase = .delay) (hc : s.delayCnt = 1) (hrun : s.running = true) (hq : s.q = e :: more)
    (hbytes : encodeEntry e = some bs) :
    onTick s = .next (transmit bs { s with delayCnt := 0, phase := .idle }) := by
  have hlaunch : launchFrame { s with delayCnt := 0, phase := .idle } = some bs :=
    (launchFrame_some_iff _ bs).2 ⟨hrun, rfl, e, more, hq, hbytes⟩
  rw [onTick_of_delay_over hp hc, tryLaunch_of_some hlaunch]

/-- While stopped, or with an empty queue, the end of the delay leaves EFD in IDLE (R161, R173). -/
theorem onTick_of_delay_over_idle {s : State} (hp : s.phase = .delay) (hc : s.delayCnt = 1)
    (hnone : s.running = false ∨ s.q = []) : onTick s = .next { s with delayCnt := 0, phase := .idle } := by
  have hlaunch : launchFrame { s with delayCnt := 0, phase := .idle } = none := by
    rcases hnone with hstop | hempty
    · exact launchFrame_stopped hstop
    · exact launchFrame_empty hempty
  rw [onTick_of_delay_over hp hc, tryLaunch_of_none hlaunch]

theorem onTick_of_untimed {s : State} (hp : s.phase = .idle ∨ s.phase = .txBusy ∨ s.phase = .txDrain) :
    onTick s = .next s := by
  rcases hp with hp | hp | hp <;> simp only [onTick, hp]

theorem toNat_sub_one {w : Nat} {x : BitVec w} (h : 0 < x.toNat) : (x - 1#w).toNat = x.toNat - 1 := by
  have hone : (1#w).toNat = 1 := by
    rw [BitVec.toNat_ofNat]
    exact Nat.mod_eq_of_lt (Nat.lt_of_le_of_lt h x.isLt)
  rw [BitVec.toNat_sub_of_le (by rw [BitVec.le_def, hone]; exact h), hone]

theorem ne_one_of_one_lt {w : Nat} {x : BitVec w} (h : 1 < x.toNat) : x ≠ 1#w := by
  rintro rfl
  rw [BitVec.toNat_ofNat] at h
  exact absurd (Nat.mod_le 1 _) (Nat.not_le.2 h)

theorem sub_one_eq_ofNat {w : Nat} {x : BitVec w} (h : 0 < x.toNat) : x - 1#w = BitVec.ofNat w (x.toNat - 1) := by
  rw [← toNat_sub_one h, BitVec.ofNat_toNat, BitVec.setWidth_eq]

/-- Settles O45: one equation of `onTick` per clause; at the end of a delay the launch sends the head's frame, or there
is nothing to launch. -/
theorem tickByPhase : Obligations.TickByPhase := by
  intro s rest hin
  rw [step_eq_react_taking hin, react]
  refine ⟨fun hp hc => ?_, fun e more hp hc hq => ?_, fun hp hc => ?_, fun e more bs hp hc hrun hq hbytes => ?_,
    fun hp hc hnone => ?_, fun hp => ?_⟩
  · rw [← sub_one_eq_ofNat (Nat.zero_lt_of_lt hc)]
    exact onTick_of_waiting (s := s.taking rest) hp (ne_one_of_one_lt hc)
  · rw [onTick_of_timeout (s := s.taking rest) hp hc]
    exact congrArg _ (settleHead_eq_episodeEnds (s := s.taking rest) _ hq)
  · rw [← sub_one_eq_ofNat (Nat.zero_lt_of_lt hc)]
    exact onTick_of_delaying (s := s.taking rest) hp (ne_one_of_one_lt hc)
  · exact onTick_of_delay_over_sends (s := s.taking rest) hp hc hrun hq hbytes
  · exact onTick_of_delay_over_idle (s := s.taking rest) hp hc hnone
  · exact onTick_of_untimed (s := s.taking rest) hp

end Sys2Proof.Machine
end

section
/-! SUPPORT. What a step can do, one inversion lemma for every event but Reset, and a received byte outside WAIT
(R171). -/

namespace Sys2Proof.Machine

/-! ## Outputs that no claim over runs counts -/

/-- Neither an acceptance nor a settlement nor a frame. -/
structure Uncounted (os : List Output) : Prop where
  accept : acceptTags os = []
  settle : settleTags os = []
  sent : sentFrames os = []

theorem uncounted_cmdOk : Uncounted [.cmdOk] := ⟨rfl, rfl, rfl⟩

theorem uncounted_refuse (e : Err) : Uncounted [.refuse e] := ⟨rfl, rfl, rfl⟩

/-- Only pushes to the Status Store, each for one of the channels (R125). -/
def Pushes (os : List Output) : Prop := ∀ o ∈ os, ∃ c st, o = .statusUpdate c st ∧ 1 ≤ c ∧ c ≤ 15

theorem pushes_nil : Pushes [] := by simp [Pushes]

theorem pushes_append {a b : List Output} (ha : Pushes a) (hb : Pushes b) : Pushes (a ++ b) := by
  intro o ho
  rcases List.mem_append.1 ho with h | h
  · exact ha o h
  · exact hb o h

theorem pushes_statusOutputs (high low status : Byte) : Pushes (statusOutputs high low status) := by
  intro o ho
  unfold statusOutputs at ho
  split at ho
  · cases ho
  next hc =>
    obtain rfl := List.mem_singleton.1 ho
    exact ⟨_, _, rfl, Nat.pos_of_ne_zero hc, bytesToChannel_le high low⟩

theorem Pushes.uncounted {os : List Output} (h : Pushes os) : Uncounted os := by
  have hnone {α : Type} (f : Output → Option α) (hf : ∀ c st, f (.statusUpdate c st) = none) : os.filterMap f = [] := by
    refine List.filterMap_eq_nil_iff.2 fun o ho => ?_
    obtain ⟨c, st, rfl, _⟩ := h o ho
    exact hf c st
  exact ⟨hnone _ fun _ _ => rfl, hnone _ fun _ _ => rfl, hnone _ fun _ _ => rfl⟩

/-! ## Bytes that only fill the buffer and push a status -/

/-- The receive path's effect where no head is settled: another buffer and more outputs (R121, R125). -/
def State.heard (s : State) (rb : List Byte) (os : List Output) : State := { s with rb := rb, outs := s.outs ++ os }

@[simp] theorem heard_phase (s : State) (rb : List Byte) (os : List Output) : (s.heard rb os).phase = s.phase := rfl
@[simp] theorem heard_outs (s : State) (rb : List Byte) (os : List Output) : (s.heard rb os).outs = s.outs ++ os := rfl

@[simp] theorem heard_heard (s : State) (rb rb' : List Byte) (os os' : List Output) :
    (s.heard rb os).heard rb' os' = s.heard rb' (os ++ os') := by
  simp [State.heard]

theorem heard_nil (s : State) : s.heard s.rb [] = s := by simp [State.heard]

/-! ## The phase a procedure leaves -/

theorem tryLaunch_phase (s : State) :
    (tryLaunch s).phase = s.phase ∨ (s.phase = .idle ∧ (tryLaunch s).phase = .txBusy) := by
  rcases tryLaunch_cases s with ⟨_, h⟩ | ⟨bs, hsome, h⟩ <;> rw [h]
  · exact .inl rfl
  · obtain ⟨_, hidle, _⟩ := (launchFrame_some_iff s bs).1 hsome
    exact .inr ⟨hidle, rfl⟩

/-- Outside IDLE nothing is launched (R161). -/
theorem tryLaunch_of_phase {s : State} (h : s.phase ≠ .idle) : tryLaunch s = s :=
  tryLaunch_of_none (launchFrame_phase h)

theorem enterDelay_phase_mem (s : State) : (enterDelay s).phase ∈ episodePhases s := by
  rcases enterDelay_cases s with ⟨hcfg, h⟩ | ⟨hcfg, h⟩ <;> rw [h, episodePhases]
  · rw [if_pos hcfg]
    rcases tryLaunch_phase { s with delayCnt := 0, phase := .idle } with hp | ⟨_, hp⟩ <;> rw [hp] <;> simp
  · rw [if_neg hcfg]
    exact List.mem_singleton_self _

theorem settleHead_phase_mem (o : Settlement) (s : State) : (settleHead o s).phase ∈ episodePhases s := by
  rcases settleHead_cases o s with ⟨_, h⟩ | ⟨e, rest, _, h⟩ <;> rw [h]
  · exact enterDelay_phase_mem _
  · exact enterDelay_phase_mem (State.emit { s with q := rest, toCnt := 0 } (.settle e.tag o))

theorem wait_not_mem_episodePhases (s : State) : Phase.wait ∉ episodePhases s := by
  unfold episodePhases
  split <;> simp

/-- After an episode has ended nothing is in WAIT (R167). -/
theorem settleHead_phase_ne_wait (o : Settlement) (s : State) : (settleHead o s).phase ≠ .wait :=
  fun h => wait_not_mem_episodePhases s (h ▸ settleHead_phase_mem o s)

/-! ## What a step can do -/

/-- STOP before the phase is looked at: the answer, the rejections, everything cleared (R192). -/
def State.rejected (s : State) : State := { rejectAll (s.emit .cmdOk) with rb := [], toCnt := 0, running := false }

@[simp] theorem rejected_phase (s : State) : s.rejected.phase = s.phase := rfl
@[simp] theorem rejected_delayCfg (s : State) : s.rejected.delayCfg = s.delayCfg := rfl
@[simp] theorem rejected_nextTag (s : State) : s.rejected.nextTag = s.nextTag := rfl
@[simp] theorem rejected_q (s : State) : s.rejected.q = [] := rfl
theorem rejected_outs (s : State) :
    s.rejected.outs = s.outs ++ [.cmdOk] ++ s.q.map fun e => Output.settle e.tag (.err .dispatcherStopped) := rfl

/-- Everything that a reaction to an event other than Reset can be (R120 to R126, R140 to R144, R162 to R165, R172 to
R174, R190 to R195): the event, the conditions it takes effect under, and the next state. -/
inductive Reaction (s : State) : Event → State → Prop where
  /-- NOP, SETDELAY, a refusal: an answer, and at most a new `delay_cfg` -/
  | answer (w : CmdWord) (d : BitVec 16) (os : List Output) (hop : opField w ≠ 0x02) (hos : Uncounted os) :
    Reaction s (.cmd w) { s with delayCfg := d, outs := s.outs ++ os }
  | start (w : CmdWord) (hop : opField w = 0x01) :
    Reaction s (.cmd w) (tryLaunch (State.emit { s with running := true } .cmdOk))
  | accept (w : CmdWord) (kind : Kind) (chan : BitVec 4) (act : Byte) (hop : opField w ∈ [0x4A#8, 0x4C#8, 0x4E#8]) :
    Reaction s (.cmd w) (enqueue kind chan act s)
  | stop (w : CmdWord) (hop : opField w = 0x02) : Reaction s (.cmd w) (stopPhase s.rejected)
  /-- a byte that completes nothing, or a frame that no head waits for -/
  | byte (b : Byte) (rb : List Byte) (os : List Output) (hos : Pushes os) : Reaction s (.rxByte b) (s.heard rb os)
  /-- a byte that completes the response the head waits for -/
  | response (b : Byte) (rb rb' : List Byte) (os os' : List Output) (o : Settlement) (hos : Pushes os)
    (hos' : Pushes os') (hp : s.phase = .wait) (hq : s.q ≠ []) :
    Reaction s (.rxByte b) ((settleHead o (s.heard rb os)).heard rb' os')
  | written (hp : s.phase = .txBusy) : Reaction s (.txDone true) { s with phase := .wait, toCnt := 5000 }
  | writeFailed (hp : s.phase = .txBusy) : Reaction s (.txDone false) (settleHead (.err .transportWriteFailed) s)
  | drained (ok : Bool) (hp : s.phase = .txDrain) : Reaction s (.txDone ok) (enterDelay s)
  | strayReport (ok : Bool) (hp : s.phase = .idle ∨ s.phase = .wait ∨ s.phase = .delay) : Reaction s (.txDone ok) s
  | waitTick (hp : s.phase = .wait) (hc : s.toCnt ≠ 1) : Reaction s .tick { s with toCnt := s.toCnt - 1 }
  | timeout (hp : s.phase = .wait) (hc : s.toCnt = 1) : Reaction s .tick (settleHead (.err .responseTimeout) s)
  | delayTick (hp : s.phase = .delay) (hc : s.delayCnt ≠ 1) : Reaction s .tick { s with delayCnt := s.delayCnt - 1 }
  | delayOver (hp : s.phase = .delay) (hc : s.delayCnt = 1) :
    Reaction s .tick (tryLaunch { s with delayCnt := 0, phase := .idle })
  | untimedTick (hp : s.phase = .idle ∨ s.phase = .txBusy ∨ s.phase = .txDrain) : Reaction s .tick s

/-! ### Command words -/

/-- A request word of R140 to R143 is refused or accepted. -/
theorem reaction_admitRequest {s : State} {w : CmdWord} (hop : opField w ∈ [0x4A#8, 0x4C#8, 0x4E#8]) (kind : Kind)
    (chan : BitVec 4) (act : Byte) : Reaction s (.cmd w) (admitRequest kind chan act s) := by
  have hne : opField w ≠ 0x02 := by
    intro h
    rw [h] at hop
    exact absurd hop (by decide)
  rcases admitRequest_cases kind chan act s with ⟨_, h⟩ | ⟨_, _, h⟩ | ⟨_, _, h⟩ <;> rw [h]
  · exact .answer w s.delayCfg _ hne (uncounted_refuse _)
  · exact .answer w s.delayCfg _ hne (uncounted_refuse _)
  · exact .accept w kind chan act hop

theorem reaction_exec {s t : State} {w : CmdWord} {i : Instr} (hw : encode i = .word w) (h : exec i s = .next t) :
    Reaction s (.cmd w) t := by
  cases i <;> cases hw
  case nop chan arg =>
    cases h
    exact .answer _ s.delayCfg _ (by simp) uncounted_cmdOk
  case start chan arg =>
    cases h
    exact .start _ (by simp)
  case stop chan arg =>
    cases h
    exact .stop _ (by simp)
  case setDelay chan arg =>
    cases h
    exact .answer _ arg _ (by simp) uncounted_cmdOk
  case check chan arg =>
    cases h
    exact reaction_admitRequest (by simp) _ _ _
  case send chan arg =>
    rcases exec_send_cases h with ⟨e, rfl⟩ | ⟨_, _, rfl⟩
    · exact .answer _ s.delayCfg _ (by simp) (uncounted_refuse e)
    · exact reaction_admitRequest (by simp) _ _ _
  case info chan arg =>
    rcases exec_info_cases h with rfl | ⟨_, rfl⟩
    · exact .answer _ s.delayCfg _ (by simp) (uncounted_refuse _)
    · exact reaction_admitRequest (by simp) _ _ _

/-- A refused word is not STOP, since every word with STOP's code decodes (R81, R194). -/
theorem reaction_onCmd {s t : State} {w : CmdWord} (h : onCmd w s = .next t) : Reaction s (.cmd w) t := by
  by_cases hop : opField w = 0x02
  · have hstop : encode (.stop (chanField w) (argField w)) = .word w := word_of_opField hop
    rw [onCmd_of_decode (decodeWord_of_encode hstop)] at h
    exact reaction_exec hstop h
  · rcases onCmd_cases h with ⟨i, hdec, hexec⟩ | rfl
    · exact reaction_exec (encode_of_decodeWord hdec) hexec
    · exact .answer w s.delayCfg _ hop (uncounted_refuse _)

/-! ### Received bytes -/

/-- A delivered frame pushes a status or nothing, and may settle a waiting head (R123 to R126). -/
theorem deliver_heard {c : List Byte} {s t : State} (h : deliver c s = .next t) :
    ∃ os, Pushes os ∧
      (t = s.heard s.rb os ∨ (s.phase = .wait ∧ s.q ≠ [] ∧ ∃ o, t = settleHead o (s.heard s.rb os))) := by
  rcases deliver_cases h with rfl | ⟨high, low, rfl⟩ | ⟨high, low, status, rfl⟩
  · exact ⟨[], pushes_nil, .inl (heard_nil t).symm⟩
  · refine ⟨[], pushes_nil, ?_⟩
    rw [heard_nil]
    rcases deliverConfirm_cases high low s with ⟨_, he⟩ | ⟨hm, he⟩
    · exact .inl he
    · obtain ⟨hp, e, rest, hq, _⟩ := (confirmMatches_iff s).1 hm
      exact .inr ⟨hp, by simp [hq], _, he⟩
  · refine ⟨_, pushes_statusOutputs high low status, ?_⟩
    have hpush : pushStatus high low status s = s.heard s.rb (statusOutputs high low status) :=
      pushStatus_eq_statusOutputs high low status s
    rw [← hpush]
    rcases deliverAck_cases high low status s with ⟨_, he⟩ | ⟨hm, he⟩
    · exact .inl he
    · obtain ⟨hp, e, rest, hq, _⟩ := (ackMatches_iff s).1 hm
      exact .inr ⟨hp, by simp [hq], _, he⟩

/-- A second frame in the same step finds no head waiting any more, so it settles nothing. -/
theorem Reaction.deliver {s u t : State} {b : Byte} {c : List Byte} (hu : Reaction s (.rxByte b) u)
    (h : deliver c u = .next t) : Reaction s (.rxByte b) t := by
  obtain ⟨os₂, hos₂, hnext⟩ := deliver_heard h
  cases hu with
  | byte _ rb os hos =>
    rcases hnext with rfl | ⟨hp, hq, o, rfl⟩
    · rw [heard_heard]
      exact .byte b _ _ (pushes_append hos hos₂)
    · rw [heard_heard, ← heard_nil (settleHead _ _)]
      exact .response b _ _ _ _ o (pushes_append hos hos₂) pushes_nil hp hq
  | response _ rb rb' os os' o hos hos' hp hq =>
    rcases hnext with rfl | ⟨hwait, _⟩
    · rw [heard_heard]
      exact .response b _ _ _ _ o hos (pushes_append hos' hos₂) hp hq
    · exact absurd hwait (settleHead_phase_ne_wait o _)

theorem Reaction.dropCandidate {s u : State} {b : Byte} (hu : Reaction s (.rxByte b) u) :
    Reaction s (.rxByte b) (dropCandidate u) := by
  have hdrop : Machine.dropCandidate u = u.heard (u.rb.drop (candidateSize u.rb)) [] := by
    simp [Machine.dropCandidate, State.heard]
  rw [hdrop]
  cases hu with
  | byte _ rb os hos =>
    rw [heard_heard, List.append_nil]
    exact .byte b _ os hos
  | response _ rb rb' os os' o hos hos' hp hq =>
    rw [heard_heard, List.append_nil]
    exact .response b _ _ os os' o hos hos' hp hq

theorem reaction_onRxByte {s t : State} {b : Byte} (h : onRxByte b s = .next t) : Reaction s (.rxByte b) t := by
  rcases onRxByte_cases h with ⟨_, hd⟩ | ⟨_, rfl⟩
  · have hstart : Reaction s (.rxByte b) { s with rb := s.rb ++ [b] } := by
      simpa [State.heard] using Reaction.byte (s := s) b (s.rb ++ [b]) [] pushes_nil
    exact drain_keeps (fun _ hu => hu.dropCandidate) (fun _ _ _ hu hv => hu.deliver hv) hd hstart
  · simpa [heard_nil] using Reaction.byte (s := t) b t.rb [] pushes_nil

/-! ### Reports and ticks -/

theorem reaction_onTxDone {s t : State} {ok : Bool} (h : onTxDone ok s = .next t) : Reaction s (.txDone ok) t := by
  cases hp : s.phase with
  | txBusy =>
    cases ok with
    | true => rw [onTxDone_of_written hp] at h; cases h; exact .written hp
    | false => rw [onTxDone_of_failed hp] at h; cases h; exact .writeFailed hp
  | txDrain => rw [onTxDone_of_drain hp] at h; cases h; exact .drained ok hp
  | idle | wait | delay =>
    have hstray : s.phase = .idle ∨ s.phase = .wait ∨ s.phase = .delay := by simp [hp]
    rw [onTxDone_of_stray hstray] at h
    cases h
    exact .strayReport ok hstray

theorem reaction_onTick {s t : State} (h : onTick s = .next t) : Reaction s .tick t := by
  cases hp : s.phase with
  | wait =>
    by_cases hc : s.toCnt = 1
    · rw [onTick_of_timeout hp hc] at h; cases h; exact .timeout hp hc
    · rw [onTick_of_waiting hp hc] at h; cases h; exact .waitTick hp hc
  | delay =>
    by_cases hc : s.delayCnt = 1
    · rw [onTick_of_delay_over hp hc] at h; cases h; exact .delayOver hp hc
    · rw [onTick_of_delaying hp hc] at h; cases h; exact .delayTick hp hc
  | idle | txBusy | txDrain =>
    have huntimed : s.phase = .idle ∨ s.phase = .txBusy ∨ s.phase = .txDrain := by simp [hp]
    rw [onTick_of_untimed huntimed] at h
    cases h
    exact .untimedTick huntimed

/-! ### Every event but Reset -/

theorem reaction_of_react {s t : State} {e : Event} (hne : e ≠ .reset) (h : react e s = .next t) : Reaction s e t := by
  cases e with
  | reset => exact absurd rfl hne
  | cmd w => exact reaction_onCmd h
  | rxByte b => exact reaction_onRxByte h
  | txDone ok => exact reaction_onTxDone h
  | tick => exact reaction_onTick h

theorem reaction_of_stepOn {s t : State} {e : Event} (hne : e ≠ .reset) (h : stepOn e s = .next t) :
    Reaction (s.taking []) e t :=
  reaction_of_react hne h

/-! ## A received byte outside WAIT -/

/-- Settles O41: outside WAIT no head waits for a response, so the byte fills the buffer and pushes statuses at most. -/
theorem unsolicitedBytesTouchOnlyTheBuffer : Obligations.UnsolicitedBytesTouchOnlyTheBuffer := by
  intro s b rest hin hp
  obtain ⟨t, ht⟩ := react_next (.rxByte b) (s.taking rest)
  rw [step_eq_react_taking hin, ht]
  have hr : Reaction (s.taking rest) (.rxByte b) t := reaction_of_react (by simp) ht
  cases hr with
  | byte _ rb os hos => exact ⟨rb, os, rfl, hos⟩
  | response _ _ _ _ _ _ _ _ hwait _ => exact absurd hwait hp

end Sys2Proof.Machine
end

section
/-! SUPPORT. The transition table of `phase` (R175). -/

namespace Sys2Proof.Machine

theorem stateInv_stepOn {s t : State} {e : Event} (hs : StateInv s) (h : stepOn e s = .next t) : StateInv t :=
  everyStepKeepsTheInvariant { s with inputs := [e] } t { hs with } h

/-- STOP waits for an outstanding write, starts the delay in WAIT, where a stopped EFD launches nothing, and leaves
every other phase alone (R192). -/
theorem stopPhase_mem_table {s : State} {w : CmdWord} (hop : opField w = 0x02) :
    (stopPhase s.rejected).phase ∈ phaseTable (.cmd w) s := by
  rcases stopPhase_cases s.rejected with ⟨hp, h⟩ | ⟨hp, h⟩ | ⟨hp, h⟩ <;>
    simp only [rejected_phase] at hp <;> rw [h]
  · simp [phaseTable, hop, hp]
  · simp only [phaseTable, if_pos hop, hp]
    rcases enterDelay_cases s.rejected with ⟨hcfg, he⟩ | ⟨hcfg, he⟩ <;> rw [he] <;> rw [rejected_delayCfg] at hcfg
    · rw [if_pos hcfg, tryLaunch_of_none (launchFrame_stopped rfl)]
      exact List.mem_singleton_self _
    · rw [if_neg hcfg]
      exact List.mem_singleton_self _
  · rcases hp with hp | hp | hp <;> simp [phaseTable, hop, hp]

/-- Accepting launches only in IDLE (R144, R161). -/
theorem enqueue_phase (kind : Kind) (chan : BitVec 4) (act : Byte) (s : State) :
    (enqueue kind chan act s).phase = s.phase ∨ (s.phase = .idle ∧ (enqueue kind chan act s).phase = .txBusy) :=
  tryLaunch_phase _

theorem phase_mem_table_of_not_stop {s : State} {w : CmdWord} (hop : opField w ≠ 0x02) :
    s.phase ∈ phaseTable (.cmd w) s := by
  simp only [phaseTable, if_neg hop]
  split
  next h => simp [h.1]
  · exact List.mem_singleton_self _

/-- With the invariant START finds nothing queued in IDLE, so it launches nothing (I4, I5 of R35). -/
theorem tryLaunch_of_start {s : State} (hs : StateInv s) (o : Output) :
    tryLaunch (State.emit { s with running := true } o) = State.emit { s with running := true } o := by
  by_cases hidle : s.phase = .idle
  · have hq : s.q = [] := by
      cases hrun : s.running with
      | true => exact hs.notPostponed hrun hidle
      | false => exact (hs.stopped hrun).1
    exact tryLaunch_of_none (launchFrame_empty hq)
  · exact tryLaunch_of_phase hidle

theorem phase_mem_table {s t : State} {e : Event} (hs : StateInv s) (h : Reaction s e t) :
    t.phase ∈ phaseTable e s := by
  cases h with
  | answer w d os hop _ => exact phase_mem_table_of_not_stop hop
  | start w hop =>
    rw [tryLaunch_of_start hs]
    exact phase_mem_table_of_not_stop (by simp [hop])
  | accept w kind chan act hop =>
    have hne : opField w ≠ 0x02 := fun h => by simp [h] at hop
    rcases enqueue_phase kind chan act s with hp | ⟨hidle, hp⟩ <;> rw [hp]
    · exact phase_mem_table_of_not_stop hne
    · simp only [phaseTable, if_neg hne, if_pos (And.intro hidle hop)]
      simp
  | stop w hop => exact stopPhase_mem_table hop
  | byte b rb os _ =>
    rw [heard_phase, phaseTable]
    split
    next hp => simp [hp]
    · exact List.mem_singleton_self _
  | response b rb rb' os os' o _ _ hp _ =>
    rw [heard_phase, phaseTable, if_pos hp]
    exact List.mem_cons_of_mem _ (settleHead_phase_mem o (s.heard rb os))
  | written hp => simp [phaseTable, hp]
  | writeFailed hp => simpa [phaseTable, hp] using settleHead_phase_mem _ s
  | drained ok hp => simpa [phaseTable, hp] using enterDelay_phase_mem s
  | strayReport ok hp => rcases hp with hp | hp | hp <;> simp [phaseTable, hp]
  | waitTick hp hc => simp only [phaseTable, hp, if_neg hc, List.mem_singleton]
  | timeout hp hc => simpa [phaseTable, hp, hc] using settleHead_phase_mem _ s
  | delayTick hp hc => simp only [phaseTable, hp, if_neg hc, List.mem_singleton]
  | delayOver hp hc =>
    simp only [phaseTable, hp, if_pos hc]
    rcases tryLaunch_phase { s with delayCnt := 0, phase := .idle } with h | ⟨_, h⟩ <;> rw [h] <;> simp
  | untimedTick hp => rcases hp with hp | hp | hp <;> simp [phaseTable, hp]

/-- Settles O49: Reset leads to IDLE, and every other reaction to a phase of the table. -/
theorem phaseMovesOnlyAsTheTableSays : Obligations.PhaseMovesOnlyAsTheTableSays := by
  intro e s t hs h
  by_cases hreset : e = .reset
  · subst hreset
    cases h
    exact List.mem_singleton_self _
  · have hmem := phase_mem_table (s := s.taking []) { hs with } (reaction_of_stepOn hreset h)
    cases e <;> exact hmem

end Sys2Proof.Machine
end

section
/-! SUPPORT. Runs without Reset, and the tags of the requests: accepted, queued and settled (R181, R182). -/

namespace Sys2Proof.Machine

/-! ## Runs without Reset -/

/-- What holds of the empty run, and of a run whenever it holds behind its first step, holds of every run without
Reset. -/
theorem run_induction {P : List Event → State → State → List Output → Prop} (hnil : ∀ s, P [] s s [])
    (hcons : ∀ e es s u t os, e ≠ .reset → stepOn e s = .next u → P es u t os → P (e :: es) s t (u.outs ++ os))
    {es : List Event} {s t : State} {os : List Output} (hes : .reset ∉ es) (h : runEvents es s = some (t, os)) :
    P es s t os := by
  induction es generalizing s os with
  | nil => cases h; exact hnil _
  | cons e es ih =>
    obtain ⟨u, os', hu, hrest, rfl⟩ := runEvents_cons h
    rw [List.mem_cons, not_or] at hes
    exact hcons e es s u t os' (Ne.symm hes.1) hu (ih hes.2 hrest)

/-! ## The counted outputs -/

@[simp] theorem acceptTags_nil : acceptTags [] = [] := rfl
@[simp] theorem settleTags_nil : settleTags [] = [] := rfl

@[simp] theorem acceptTags_accept (tag : Tag) : acceptTags [.accept tag] = [tag] := rfl
@[simp] theorem settleTags_accept (tag : Tag) : settleTags [.accept tag] = [] := rfl
@[simp] theorem acceptTags_settle (tag : Tag) (o : Settlement) : acceptTags [.settle tag o] = [] := rfl
@[simp] theorem settleTags_settle (tag : Tag) (o : Settlement) : settleTags [.settle tag o] = [tag] := rfl
@[simp] theorem acceptTags_txFrame (bs : List Byte) : acceptTags [.txFrame bs] = [] := rfl
@[simp] theorem settleTags_txFrame (bs : List Byte) : settleTags [.txFrame bs] = [] := rfl

/-- What STOP puts out settles the queue in order, and does nothing else that is counted (R192). -/
theorem acceptTags_rejected (s : State) : acceptTags s.rejected.outs = acceptTags s.outs := by
  rw [rejected_outs, acceptTags_append, acceptTags_append, uncounted_cmdOk.accept]
  simp [acceptTags]

theorem settleTags_rejected (s : State) : settleTags s.rejected.outs = settleTags s.outs ++ s.q.map Entry.tag := by
  rw [rejected_outs, settleTags_append, settleTags_append, uncounted_cmdOk.settle]
  simp [settleTags]

/-! ## The tags in the middle of a step -/

/-- The tags a step deals with: those it has settled with those still queued behind them, those it has accepted, and the
next one. -/
structure Book where
  ledger : List Tag
  accepted : List Tag
  nextTag : Tag

def State.book (s : State) : Book where
  ledger := settleTags s.outs ++ s.q.map Entry.tag
  accepted := acceptTags s.outs
  nextTag := s.nextTag

/-- An acceptance enters the next tag behind all others (R144). -/
def Book.accept (b : Book) : Book where
  ledger := b.ledger ++ [b.nextTag]
  accepted := b.accepted ++ [b.nextTag]
  nextTag := b.nextTag + 1

theorem book_of_uncounted {s t : State} {os : List Output} (hos : Uncounted os) (hq : t.q = s.q)
    (htag : t.nextTag = s.nextTag) (houts : t.outs = s.outs ++ os) : t.book = s.book := by
  simp [State.book, hq, htag, houts, hos.settle, hos.accept]

@[simp] theorem book_tryLaunch (s : State) : (tryLaunch s).book = s.book := by
  rcases tryLaunch_cases s with ⟨_, h⟩ | ⟨bs, _, h⟩ <;> rw [h]
  simp [State.book]

@[simp] theorem book_enterDelay (s : State) : (enterDelay s).book = s.book := by
  rcases enterDelay_cases s with ⟨_, h⟩ | ⟨_, h⟩ <;> rw [h]
  · exact book_tryLaunch _
  · rfl

/-- A settlement moves the head's tag from the queue to the settled ones (R166). -/
@[simp] theorem book_settleHead (o : Settlement) (s : State) : (settleHead o s).book = s.book := by
  rcases settleHead_cases o s with ⟨_, h⟩ | ⟨e, rest, hq, h⟩ <;> rw [h, book_enterDelay]
  · rfl
  · simp [State.book, hq]

@[simp] theorem book_rejected (s : State) : s.rejected.book = s.book := by
  simp [State.book, acceptTags_rejected, settleTags_rejected]

@[simp] theorem book_stopPhase (s : State) : (stopPhase s).book = s.book := by
  rcases stopPhase_cases s with ⟨_, h⟩ | ⟨_, h⟩ | ⟨_, h⟩ <;> rw [h]
  · rfl
  · exact book_enterDelay s

theorem book_heard (s : State) (rb : List Byte) {os : List Output} (hos : Pushes os) : (s.heard rb os).book = s.book :=
  book_of_uncounted hos.uncounted rfl rfl rfl

theorem book_enqueue (kind : Kind) (chan : BitVec 4) (act : Byte) (s : State) :
    (enqueue kind chan act s).book = s.book.accept := by
  rw [enqueue, book_tryLaunch]
  simp [State.book, Book.accept]

/-! ## The tags over a step -/

theorem Reaction.book {s t : State} {e : Event} (h : Reaction s e t) : t.book = s.book ∨ t.book = s.book.accept := by
  cases h with
  | answer w d os _ hos => exact .inl (book_of_uncounted hos rfl rfl rfl)
  | start w _ => exact .inl ((book_tryLaunch _).trans (book_of_uncounted uncounted_cmdOk rfl rfl rfl))
  | accept w kind chan act _ => exact .inr (book_enqueue kind chan act s)
  | stop w _ => exact .inl ((book_stopPhase _).trans (book_rejected s))
  | byte b rb os hos => exact .inl (book_heard s rb hos)
  | response b rb rb' os os' o hos hos' _ _ =>
    left
    calc ((settleHead o (s.heard rb os)).heard rb' os').book
        = (settleHead o (s.heard rb os)).book := book_heard _ rb' hos'
      _ = (s.heard rb os).book := book_settleHead o _
      _ = s.book := book_heard s rb hos
  | written _ => exact .inl rfl
  | writeFailed _ => exact .inl (book_settleHead _ s)
  | drained _ _ => exact .inl (book_enterDelay s)
  | strayReport _ _ => exact .inl rfl
  | waitTick _ _ => exact .inl rfl
  | timeout _ _ => exact .inl (book_settleHead _ s)
  | delayTick _ _ => exact .inl rfl
  | delayOver _ _ => exact .inl (book_tryLaunch _)
  | untimedTick _ => exact .inl rfl

/-- A step that starts without outputs accepts nothing, or one request with the next tag. -/
theorem acceptTags_of_stepOn {s t : State} {e : Event} (hne : e ≠ .reset) (h : stepOn e s = .next t) :
    (acceptTags t.outs = [] ∧ t.nextTag = s.nextTag) ∨
      (acceptTags t.outs = [s.nextTag] ∧ t.nextTag = s.nextTag + 1) := by
  rcases (reaction_of_stepOn hne h).book with hb | hb
  · exact .inl ⟨congrArg Book.accepted hb, congrArg Book.nextTag hb⟩
  · exact .inr ⟨congrArg Book.accepted hb, congrArg Book.nextTag hb⟩

/-- A step adds the tags it accepts to the end of the queue and takes those it settles from its front. -/
theorem tags_of_stepOn {s t : State} {e : Event} (hne : e ≠ .reset) (h : stepOn e s = .next t) :
    s.q.map Entry.tag ++ acceptTags t.outs = settleTags t.outs ++ t.q.map Entry.tag := by
  rcases (reaction_of_stepOn hne h).book with hb | hb
  all_goals
    have hledger : settleTags t.outs ++ t.q.map Entry.tag = _ := congrArg Book.ledger hb
    have haccepted : acceptTags t.outs = _ := congrArg Book.accepted hb
    rw [hledger, haccepted]
    simp [State.book, Book.accept]

/-! ## The tags over a run -/

/-- Settles O56: what a step adds and takes, put together along the run. -/
theorem settlementIsFirstInFirstOut : Obligations.SettlementIsFirstInFirstOut := by
  intro es s t os
  refine run_induction (P := fun _ s t os => s.q.map Entry.tag ++ acceptTags os = settleTags os ++ t.q.map Entry.tag)
    (fun s => by simp) (fun e es s u t os hne hu ih => ?_)
  calc s.q.map Entry.tag ++ acceptTags (u.outs ++ os)
      = (s.q.map Entry.tag ++ acceptTags u.outs) ++ acceptTags os := by simp
    _ = settleTags u.outs ++ (u.q.map Entry.tag ++ acceptTags os) := by rw [tags_of_stepOn hne hu, List.append_assoc]
    _ = settleTags (u.outs ++ os) ++ t.q.map Entry.tag := by rw [ih]; simp

/-- Behind consecutive tags that end before `next_tag`, the tags a run accepts go on with the count (R27). -/
theorem tagsBefore_of_run {es : List Event} {s t : State} {os : List Output} (hes : .reset ∉ es)
    (h : runEvents es s = some (t, os)) (n : Nat) :
    tagsBefore s.nextTag n ++ acceptTags os = tagsBefore t.nextTag (n + (acceptTags os).length) := by
  revert n
  refine run_induction (P := fun _ s t os => ∀ n,
    tagsBefore s.nextTag n ++ acceptTags os = tagsBefore t.nextTag (n + (acceptTags os).length))
    (fun s n => by simp) (fun e es s u t os hne hu ih n => ?_) hes h
  rcases acceptTags_of_stepOn hne hu with ⟨hnone, htag⟩ | ⟨hone, htag⟩
  · simpa [hnone, htag] using ih n
  · have hstep : tagsBefore s.nextTag n ++ [s.nextTag] = tagsBefore u.nextTag (n + 1) := by
      rw [htag, tagsBefore_succ]
    rw [acceptTags_append, hone, ← List.append_assoc, hstep, ih, List.length_append, List.length_singleton,
      Nat.add_assoc]

/-- Settles O57: the queued tags (I8) and the accepted ones are consecutive, so distinct within one turn of the counter,
and the settled ones stand at their front (R181). -/
theorem noTagSettlesTwice : Obligations.NoTagSettlesTwice := by
  intro es s t os hs hes h hlen
  have hfifo := settlementIsFirstInFirstOut es s t os hes h
  have hnodup : (s.q.map Entry.tag ++ acceptTags os).Nodup := by
    rw [hs.tags, tagsBefore_of_run hes h]
    exact tagsBefore_nodup t.nextTag hlen
  refine ⟨?_, fun tag htag => ?_⟩
  · rw [hfifo] at hnodup
    exact hnodup.of_append_left
  · rw [hfifo]
    exact List.mem_append_left _ htag

end Sys2Proof.Machine
end

section
/-! SUPPORT. Frames and reports: what a step sends, and the balance of frames sent and writes reported (R57, R180). -/

namespace Sys2Proof.Machine

@[simp] theorem sentFrames_nil : sentFrames [] = [] := rfl
@[simp] theorem sentFrames_txFrame (bs : List Byte) : sentFrames [.txFrame bs] = [bs] := rfl

/-! ## What a procedure sends -/

/-- One frame was sent in this step, that of the head, which is now in flight (R160, R161). -/
def SentHead (t : State) : Prop :=
  t.phase = .txBusy ∧ ∃ e rest bs, t.q = e :: rest ∧ encodeEntry e = some bs ∧ sentFrames t.outs = [bs]

/-- What a step may have sent, where `w` says whether an earlier write is still outstanding: nothing, or, only if none
is, the head's frame. -/
def Sends (w : Bool) (t : State) : Prop :=
  (sentFrames t.outs = [] ∧ writePending t = w) ∨ (w = false ∧ SentHead t)

theorem sends_tryLaunch {s : State} (h0 : sentFrames s.outs = []) : Sends (writePending s) (tryLaunch s) := by
  rcases tryLaunch_cases s with ⟨_, h⟩ | ⟨bs, hsome, h⟩ <;> rw [h]
  · exact .inl ⟨h0, rfl⟩
  · obtain ⟨_, hidle, e, rest, hq, he⟩ := (launchFrame_some_iff s bs).1 hsome
    exact .inr ⟨by rw [writePending, hidle]; rfl, rfl, e, rest, bs, hq, he, by simp [h0]⟩

/-- Where an episode ends no earlier write is outstanding (R167). -/
theorem sends_enterDelay {s : State} (h0 : sentFrames s.outs = []) : Sends false (enterDelay s) := by
  rcases enterDelay_cases s with ⟨_, h⟩ | ⟨_, h⟩ <;> rw [h]
  · exact sends_tryLaunch (s := { s with delayCnt := 0, phase := .idle }) h0
  · exact .inl ⟨h0, rfl⟩

theorem sends_settleHead {s : State} (o : Settlement) (h0 : sentFrames s.outs = []) : Sends false (settleHead o s) := by
  rcases settleHead_cases o s with ⟨_, h⟩ | ⟨e, rest, _, h⟩ <;> rw [h]
  · exact sends_enterDelay h0
  · refine sends_enterDelay ?_
    rw [emit_outs, sentFrames_append, h0]
    rfl

theorem sends_heard {s : State} {w : Bool} (h : Sends w s) (rb : List Byte) {os : List Output} (hos : Pushes os) :
    Sends w (s.heard rb os) := by
  have hsame : sentFrames (s.heard rb os).outs = sentFrames s.outs := by
    rw [heard_outs, sentFrames_append, hos.uncounted.sent, List.append_nil]
  unfold Sends SentHead
  rw [hsame]
  exact h

/-- STOP sends nothing, and an outstanding write stays outstanding (R192). -/
theorem sends_stop {s : State} (h0 : sentFrames s.outs = []) : Sends (writePending s) (stopPhase s.rejected) := by
  have hrejected : sentFrames s.rejected.outs = [] := by
    rw [rejected_outs, sentFrames_append, sentFrames_append, h0, uncounted_cmdOk.sent]
    simp [sentFrames]
  rcases stopPhase_cases s.rejected with ⟨hp, h⟩ | ⟨hp, h⟩ | ⟨_, h⟩ <;> rw [h]
  · exact .inl ⟨hrejected, by simp [writePending, show s.phase = _ from hp]⟩
  · have hnone : writePending s = false := by rw [writePending, show s.phase = .wait from hp]; rfl
    rw [hnone]
    exact sends_enterDelay hrejected
  · exact .inl ⟨hrejected, rfl⟩

/-! ## What a step sends -/

/-- The reports of an outstanding write that an event is: one for a `TxDone` while a write is pending, else none. -/
def reports (e : Event) (s : State) : Nat :=
  match e with
  | .txDone _ => (writePending s).toNat
  | .reset => 0
  | .cmd _ => 0
  | .rxByte _ => 0
  | .tick => 0

theorem reportsTaken_cons {e : Event} {s t : State} (h : stepOn e s = .next t) (es : List Event) :
    reportsTaken (e :: es) s = reports e s + reportsTaken es t := by
  rw [reportsTaken.eq_def]
  simp only [h]
  cases e <;> rfl

/-- The write outstanding before a step is reported by its event, or `w` says that it still is. -/
theorem Reaction.sends {s t : State} {e : Event} (h : Reaction s e t) (h0 : sentFrames s.outs = []) :
    ∃ w : Bool, Sends w t ∧ (writePending s).toNat = w.toNat + reports e s := by
  have hwait (hp : s.phase = .wait) : writePending s = false := by rw [writePending, hp]; rfl
  cases h with
  | answer w d os _ hos => exact ⟨writePending s, .inl ⟨by simp [h0, hos.sent], rfl⟩, rfl⟩
  | start w _ =>
    refine ⟨writePending s, sends_tryLaunch (s := State.emit { s with running := true } .cmdOk) ?_, rfl⟩
    simp [h0, uncounted_cmdOk.sent]
  | accept w kind chan act _ =>
    refine ⟨writePending s, sends_tryLaunch (s := State.emit _ _) ?_, rfl⟩
    rw [emit_outs, sentFrames_append, h0]
    rfl
  | stop w _ => exact ⟨writePending s, sends_stop h0, rfl⟩
  | byte b rb os hos => exact ⟨writePending s, sends_heard (.inl ⟨h0, rfl⟩) rb hos, rfl⟩
  | response b rb rb' os os' o hos hos' hp _ =>
    have hbefore : sentFrames (s.heard rb os).outs = [] := by simp [h0, hos.uncounted.sent]
    exact ⟨false, sends_heard (sends_settleHead o hbefore) rb' hos', by rw [hwait hp]; rfl⟩
  | written hp => exact ⟨false, .inl ⟨h0, rfl⟩, (Nat.zero_add _).symm⟩
  | writeFailed hp => exact ⟨false, sends_settleHead _ h0, (Nat.zero_add _).symm⟩
  | drained ok hp => exact ⟨false, sends_enterDelay h0, (Nat.zero_add _).symm⟩
  | strayReport ok hp =>
    have hnone : writePending s = false := by rcases hp with hp | hp | hp <;> rw [writePending, hp] <;> rfl
    exact ⟨false, .inl ⟨h0, hnone⟩, (Nat.zero_add _).symm⟩
  | waitTick hp _ => exact ⟨writePending s, .inl ⟨h0, rfl⟩, rfl⟩
  | timeout hp _ => exact ⟨false, sends_settleHead _ h0, by rw [hwait hp]; rfl⟩
  | delayTick hp _ => exact ⟨writePending s, .inl ⟨h0, rfl⟩, rfl⟩
  | delayOver hp _ =>
    refine ⟨false, sends_tryLaunch (s := { s with delayCnt := 0, phase := .idle }) h0, ?_⟩
    rw [writePending, hp]
    rfl
  | untimedTick _ => exact ⟨writePending s, .inl ⟨h0, rfl⟩, rfl⟩

/-! ## The balance of frames and reports -/

/-- A frame sent is a write outstanding. -/
theorem Sends.balance {w : Bool} {t : State} (h : Sends w t) :
    (sentFrames t.outs).length + w.toNat = (writePending t).toNat := by
  rcases h with ⟨hnone, hw⟩ | ⟨rfl, hp, e, rest, bs, _, _, hsent⟩
  · rw [hnone, hw, List.length_nil, Nat.zero_add]
  · rw [hsent, writePending, hp]
    rfl

theorem balance_of_stepOn {s t : State} {e : Event} (hne : e ≠ .reset) (h : stepOn e s = .next t) :
    (sentFrames t.outs).length + (writePending s).toNat = (writePending t).toNat + reports e s := by
  obtain ⟨w, hsends, hw⟩ := (reaction_of_stepOn hne h).sends rfl
  have hbalance := hsends.balance
  have hsame : (writePending s).toNat = w.toNat + reports e s := by cases e <;> exact hw
  omega

theorem balance_of_run {es : List Event} {s t : State} {os : List Output} (hes : .reset ∉ es)
    (h : runEvents es s = some (t, os)) :
    (sentFrames os).length + (writePending s).toNat = (writePending t).toNat + reportsTaken es s := by
  refine run_induction (P := fun es s t os =>
    (sentFrames os).length + (writePending s).toNat = (writePending t).toNat + reportsTaken es s)
    (fun s => ?_) (fun e es s u t os hne hu ih => ?_) hes h
  · rw [sentFrames_nil, reportsTaken, List.length_nil, Nat.zero_add, Nat.add_zero]
  · have hstep := balance_of_stepOn hne hu
    rw [sentFrames_append, List.length_append, reportsTaken_cons hu]
    omega

/-! ## One frame a step -/

theorem sentHead_or_none_of_step {s t : State} (h : step s = .next t) : sentFrames t.outs = [] ∨ SentHead t := by
  rcases step_cases h with rfl | ⟨e, rest, hreact⟩
  · exact .inl rfl
  · by_cases hreset : e = .reset
    · subst hreset
      cases hreact
      exact .inl rfl
    · obtain ⟨w, hsends, _⟩ := (reaction_of_react hreset hreact).sends rfl
      exact hsends.imp And.left And.right

theorem inFlight_length_le (s : State) : (inFlight s).length ≤ 1 := by
  unfold inFlight
  split <;> simp

theorem SentHead.inFlight {t : State} (h : SentHead t) :
    t.phase = .txBusy ∧ (inFlight t).map encodeEntry = (sentFrames t.outs).map some := by
  obtain ⟨hp, e, rest, bs, hq, he, hsent⟩ := h
  exact ⟨hp, by simp [Machine.inFlight, hp, hq, he, hsent]⟩

/-- Settles O55: along a run the frames sent and the reports taken balance the writes outstanding at its ends; and a
step sends the head's frame or nothing. -/
theorem writesAreSerialised : Obligations.WritesAreSerialised := by
  refine ⟨fun es s t os => balance_of_run, fun s t _ h => ?_⟩
  rcases sentHead_or_none_of_step h with hnone | hsent
  · exact ⟨by simp [hnone], inFlight_length_le t, fun hne => absurd hnone hne⟩
  · have hflight := hsent.inFlight
    obtain ⟨_, e, rest, bs, _, _, hone⟩ := hsent
    exact ⟨by simp [hone], inFlight_length_le t, fun _ => hflight⟩

end Sys2Proof.Machine
end

section
/-! SUPPORT. The two counters over a run: no frame is sent while the delay runs (R184), and a head in WAIT settles
before its timer is over (R172, R204). -/

namespace Sys2Proof.Machine

theorem tickCount_cons (e : Event) (es : List Event) : tickCount (e :: es) = tickCount [e] + tickCount es := by
  rw [← List.singleton_append, tickCount, List.countP_append]
  rfl

/-! ## What settles, and what starts the delay -/

@[simp] theorem settleTags_tryLaunch (s : State) : settleTags (tryLaunch s).outs = settleTags s.outs := by
  rcases tryLaunch_cases s with ⟨_, h⟩ | ⟨bs, _, h⟩ <;> simp [h]

@[simp] theorem settleTags_enterDelay (s : State) : settleTags (enterDelay s).outs = settleTags s.outs := by
  rcases enterDelay_cases s with ⟨_, h⟩ | ⟨_, h⟩ <;> simp [h]

@[simp] theorem settleTags_settleHead (o : Settlement) (s : State) :
    settleTags (settleHead o s).outs = settleTags s.outs ++ (s.q.take 1).map Entry.tag := by
  rcases settleHead_cases o s with ⟨hq, h⟩ | ⟨e, rest, hq, h⟩ <;> simp [h, hq]

@[simp] theorem settleTags_stopPhase (s : State) : settleTags (stopPhase s).outs = settleTags s.outs := by
  rcases stopPhase_cases s with ⟨_, h⟩ | ⟨_, h⟩ | ⟨_, h⟩ <;> simp [h]

theorem settleTags_heard (s : State) (rb : List Byte) {os : List Output} (hos : Pushes os) :
    settleTags (s.heard rb os).outs = settleTags s.outs := by
  simp [hos.uncounted.settle]

theorem settleTags_enqueue (kind : Kind) (chan : BitVec 4) (act : Byte) (s : State) :
    settleTags (enqueue kind chan act s).outs = settleTags s.outs := by
  simp [enqueue]

theorem settles_settleHead {s : State} (o : Settlement) (hq : s.q ≠ []) : settleTags (settleHead o s).outs ≠ [] := by
  simp [hq]

theorem settles_stop {s : State} (hq : s.q ≠ []) : settleTags (stopPhase s.rejected).outs ≠ [] := by
  simp [settleTags_rejected, hq]

theorem settles_response {s : State} {rb rb' : List Byte} {os os' : List Output} (o : Settlement) (hos' : Pushes os')
    (hq : s.q ≠ []) : settleTags ((settleHead o (s.heard rb os)).heard rb' os').outs ≠ [] := by
  rw [settleTags_heard _ _ hos']
  exact settles_settleHead o hq

/-- The delay runs, with the ticks that `delay_cfg` gave it (R167). -/
def Paced (d : BitVec 16) (t : State) : Prop := t.phase = .delay ∧ t.delayCnt = d

theorem paced_enterDelay {s : State} (hcfg : s.delayCfg ≠ 0) : Paced s.delayCfg (enterDelay s) := by
  have hmem := enterDelay_phase_mem s
  rw [episodePhases, if_neg hcfg] at hmem
  exact ⟨List.mem_singleton.1 hmem, enterDelay_delayCnt s⟩

theorem paced_settleHead {s : State} (o : Settlement) (hcfg : s.delayCfg ≠ 0) : Paced s.delayCfg (settleHead o s) := by
  have hmem := settleHead_phase_mem o s
  rw [episodePhases, if_neg hcfg] at hmem
  exact ⟨List.mem_singleton.1 hmem, settleHead_delayCnt o s⟩

/-! ## The end of an episode -/

/-- What R184 counts from: a launched request settled, unless its write is left to drain, or a drained write was
reported. -/
def EpisodeOver (s t : State) : Prop :=
  (inFlight s ≠ [] ∧ settleTags t.outs ≠ [] ∧ t.phase ≠ .txDrain) ∨ (s.phase = .txDrain ∧ t.phase ≠ .txDrain)

theorem not_episodeOver {s t : State} (hsettle : settleTags t.outs = []) (hp : t.phase = s.phase ∨ s.phase ≠ .txDrain) :
    ¬ EpisodeOver s t := by
  rintro (⟨_, hne, _⟩ | ⟨hdrain, hne⟩)
  · exact hne hsettle
  · rcases hp with hp | hp
    · exact hne (hp.trans hdrain)
    · exact hp hdrain

/-- STOP ends an episode in WAIT only. -/
theorem paced_stop {s : State} (hcfg : s.delayCfg ≠ 0) (hover : EpisodeOver s (stopPhase s.rejected)) :
    Paced s.delayCfg (stopPhase s.rejected) := by
  rcases stopPhase_cases s.rejected with ⟨hp, h⟩ | ⟨_, h⟩ | ⟨hp, h⟩ <;> rw [h] at hover ⊢
  · rcases hover with ⟨_, _, hne⟩ | ⟨_, hne⟩ <;> exact absurd rfl hne
  · exact paced_enterDelay (s := s.rejected) hcfg
  · rw [rejected_phase] at hp
    rcases hover with ⟨hflight, _⟩ | ⟨hdrain, hne⟩
    · rcases hp with hp | hp | hp <;> simp [inFlight, hp] at hflight
    · exact absurd hdrain hne

/-- Where an episode is over and `delay_cfg` is not 0, the delay has just been started with it. -/
theorem Reaction.paced {s t : State} {e : Event} (h : Reaction s e t) (h0 : s.outs = []) (hcfg : s.delayCfg ≠ 0)
    (hover : EpisodeOver s t) : Paced s.delayCfg t := by
  have hnone : settleTags s.outs = [] := by rw [h0]; rfl
  cases h with
  | answer w d os _ hos => exact absurd hover (not_episodeOver (by simp [hnone, hos.settle]) (.inl rfl))
  | start w _ =>
    refine absurd hover (not_episodeOver (by simp [hnone, uncounted_cmdOk.settle]) ?_)
    rcases tryLaunch_phase (State.emit { s with running := true } .cmdOk) with hp | ⟨hidle, _⟩
    · exact .inl hp
    · exact .inr (by simp [show s.phase = .idle from hidle])
  | accept w kind chan act _ =>
    refine absurd hover (not_episodeOver (by rw [settleTags_enqueue, hnone]) ?_)
    rcases enqueue_phase kind chan act s with hp | ⟨hidle, _⟩
    · exact .inl hp
    · exact .inr (by simp [hidle])
  | stop w _ => exact paced_stop hcfg hover
  | byte b rb os hos => exact absurd hover (not_episodeOver (by rw [settleTags_heard _ _ hos, hnone]) (.inl rfl))
  | response b rb rb' os os' o _ _ _ _ => exact paced_settleHead (s := s.heard rb os) o hcfg
  | written hp => exact absurd hover (not_episodeOver hnone (.inr (by simp [hp])))
  | writeFailed _ => exact paced_settleHead _ hcfg
  | drained _ _ => exact paced_enterDelay hcfg
  | strayReport _ _ => exact absurd hover (not_episodeOver hnone (.inl rfl))
  | waitTick _ _ => exact absurd hover (not_episodeOver hnone (.inl rfl))
  | timeout _ _ => exact paced_settleHead _ hcfg
  | delayTick _ _ => exact absurd hover (not_episodeOver hnone (.inl rfl))
  | delayOver hp _ => exact absurd hover (not_episodeOver (by simp [hnone]) (.inr (by simp [hp])))
  | untimedTick _ => exact absurd hover (not_episodeOver hnone (.inl rfl))

/-! ## While the delay runs -/

theorem start_phase {s : State} (hp : s.phase ≠ .idle) (o : Output) :
    (tryLaunch (State.emit { s with running := true } o)).phase = s.phase := by
  rw [tryLaunch_of_phase]
  · rfl
  · exact hp

theorem enqueue_phase_of_ne_idle {s : State} (hp : s.phase ≠ .idle) (kind : Kind) (chan : BitVec 4) (act : Byte) :
    (enqueue kind chan act s).phase = s.phase :=
  (enqueue_phase kind chan act s).resolve_right fun h => hp h.1

@[simp] theorem enqueue_toCnt (kind : Kind) (chan : BitVec 4) (act : Byte) (s : State) :
    (enqueue kind chan act s).toCnt = s.toCnt := tryLaunch_toCnt _

@[simp] theorem enqueue_delayCnt (kind : Kind) (chan : BitVec 4) (act : Byte) (s : State) :
    (enqueue kind chan act s).delayCnt = s.delayCnt := tryLaunch_delayCnt _

/-- In DELAY an event that is not the delay's last tick leaves DELAY alone, and only a tick counts (R173). -/
theorem Reaction.delaying {s t : State} {e : Event} (h : Reaction s e t) (hp : s.phase = .delay)
    (hleft : tickCount [e] < s.delayCnt.toNat) :
    t.phase = .delay ∧ t.delayCnt.toNat + tickCount [e] = s.delayCnt.toNat := by
  have hnotIdle : s.phase ≠ .idle := by simp [hp]
  cases h with
  | answer => exact ⟨hp, rfl⟩
  | start => exact ⟨(start_phase hnotIdle _).trans hp, by simp [tickCount]⟩
  | accept _ kind chan act => exact ⟨(enqueue_phase_of_ne_idle hnotIdle kind chan act).trans hp, by simp [tickCount]⟩
  | stop =>
    have hkeep : stopPhase s.rejected = s.rejected := by simp [stopPhase, hp]
    rw [hkeep]
    exact ⟨hp, rfl⟩
  | byte => exact ⟨hp, rfl⟩
  | strayReport => exact ⟨hp, rfl⟩
  | delayTick _ _ =>
    have hpos : 0 < s.delayCnt.toNat := Nat.zero_lt_of_lt hleft
    exact ⟨hp, (congrArg (· + 1) (toNat_sub_one hpos)).trans (Nat.sub_add_cancel hpos)⟩
  | delayOver _ hc => simp [hc, tickCount] at hleft
  | response _ _ _ _ _ _ _ _ hother => simp [hp] at hother
  | written hother | writeFailed hother | drained _ hother | waitTick hother | timeout hother | untimedTick hother =>
    simp [hp] at hother

theorem sentFrames_of_delaying {es : List Event} {s t : State} {os : List Output} (hes : .reset ∉ es)
    (h : runEvents es s = some (t, os)) (hp : s.phase = .delay) (hleft : tickCount es < s.delayCnt.toNat) :
    sentFrames os = [] := by
  revert hp hleft
  refine run_induction (P := fun es s _ os => s.phase = .delay → tickCount es < s.delayCnt.toNat → sentFrames os = [])
    (fun s _ _ => rfl) (fun e es s u t os hne hu ih hp hleft => ?_) hes h
  rw [tickCount_cons] at hleft
  obtain ⟨hpu, hcnt⟩ := (reaction_of_stepOn hne hu).delaying hp (Nat.lt_of_le_of_lt (Nat.le_add_right _ _) hleft)
  have hnone : sentFrames u.outs = [] := by
    rcases sentHead_or_none_of_step hu with hnone | ⟨hbusy, _⟩
    · exact hnone
    · simp [hpu] at hbusy
  have hcnt' : u.delayCnt.toNat + tickCount [e] = s.delayCnt.toNat := hcnt
  rw [sentFrames_append, hnone, ih hpu (by omega)]
  rfl

/-- Settles O58: the end of an episode starts the delay with `delay_cfg`, and while it runs no frame is sent. With
`delay_cfg` 0 there is no run with fewer ticks. -/
theorem framesArePaced : Obligations.FramesArePaced := by
  intro e s t u es os _ hne h hover hes hrun hticks
  have hcfg : s.delayCfg ≠ 0 := by
    intro h0
    rw [h0] at hticks
    exact Nat.not_lt_zero _ hticks
  obtain ⟨hp, hcnt⟩ := (reaction_of_stepOn hne h).paced rfl hcfg hover
  exact sentFrames_of_delaying hes hrun hp (by rw [hcnt]; exact hticks)

/-! ## While the head waits -/

/-- In WAIT an event settles the head, or it leaves WAIT alone, and only a tick counts (R172). -/
theorem Reaction.waiting {s t : State} {e : Event} (h : Reaction s e t) (hp : s.phase = .wait) (hq : s.q ≠ [])
    (hcnt : 0 < s.toCnt.toNat) :
    settleTags t.outs ≠ [] ∨ (t.phase = .wait ∧ t.toCnt.toNat + tickCount [e] = s.toCnt.toNat) := by
  have hnotIdle : s.phase ≠ .idle := by simp [hp]
  cases h with
  | answer => exact .inr ⟨hp, rfl⟩
  | start => exact .inr ⟨(start_phase hnotIdle _).trans hp, by simp [tickCount]⟩
  | accept _ kind chan act =>
    exact .inr ⟨(enqueue_phase_of_ne_idle hnotIdle kind chan act).trans hp, by simp [tickCount]⟩
  | stop => exact .inl (settles_stop hq)
  | byte => exact .inr ⟨hp, rfl⟩
  | response _ _ _ _ _ o _ hos' => exact .inl (settles_response o hos' hq)
  | strayReport => exact .inr ⟨hp, rfl⟩
  | waitTick => exact .inr ⟨hp, (congrArg (· + 1) (toNat_sub_one hcnt)).trans (Nat.sub_add_cancel hcnt)⟩
  | timeout => exact .inl (settles_settleHead _ hq)
  | written hother | writeFailed hother | drained _ hother | delayTick hother | delayOver hother | untimedTick hother =>
    simp [hp] at hother

/-- The first tag to settle is the head's (R181). -/
theorem head_mem_settleTags {q q' : List Tag} {tag : Tag} {acc settled : List Tag}
    (h : tag :: q ++ acc = settled ++ q') (hne : settled ≠ []) : tag ∈ settled := by
  cases settled with
  | nil => exact absurd rfl hne
  | cons x xs =>
    rw [List.cons_append, List.cons_append, List.cons.injEq] at h
    exact h.1 ▸ List.mem_cons_self

theorem head_settles_of_waiting {es : List Event} {s t : State} {os : List Output} (hes : .reset ∉ es)
    (h : runEvents es s = some (t, os)) {tag : Tag} (hs : StateInv s) (hp : s.phase = .wait)
    (hhead : ∃ more, s.q.map Entry.tag = tag :: more) (hticks : s.toCnt.toNat ≤ tickCount es) :
    tag ∈ settleTags os := by
  revert hs hp hhead hticks
  refine run_induction (P := fun es s _ os => StateInv s → s.phase = .wait →
      (∃ more, s.q.map Entry.tag = tag :: more) → s.toCnt.toNat ≤ tickCount es → tag ∈ settleTags os)
    (fun s hs hp _ hticks => ?_) (fun e es s u t os hne hu ih hs hp hhead hticks => ?_) hes h
  · exact absurd (hs.timeout.1 hp) (Nat.not_lt.2 hticks)
  · obtain ⟨more, hmore⟩ := hhead
    have htags := tags_of_stepOn hne hu
    rw [hmore] at htags
    rw [settleTags_append, List.mem_append]
    by_cases hnone : settleTags u.outs = []
    · rcases (reaction_of_stepOn hne hu).waiting hp (hs.inFlight (.inr hp)).1 (hs.timeout.1 hp) with
        hsettle | ⟨hpu, hcnt⟩
      · exact absurd hnone hsettle
      · have hcnt' : u.toCnt.toNat + tickCount [e] = s.toCnt.toNat := hcnt
        rw [tickCount_cons] at hticks
        rw [hnone] at htags
        exact .inr (ih (stateInv_stepOn hs hu) hpu ⟨more ++ acceptTags u.outs, htags.symm⟩ (by omega))
    · exact .inl (head_mem_settleTags htags hnone)

/-- Settles O59: until the head settles it stays the head, in WAIT, and each tick takes one from its timer, which the
invariant has above 0 there. -/
theorem waitingRequestSettlesWithinItsTimeout : Obligations.WaitingRequestSettlesWithinItsTimeout := by
  intro es s t os e rest hs hp hq hes hticks h
  exact head_settles_of_waiting hes h hs hp ⟨rest.map Entry.tag, by simp [hq]⟩ hticks

end Sys2Proof.Machine
end

section
/-! SUPPORT. Unending runs: each queued request comes nearer to its settlement with every event that its phase waits
for, so it is settled some time (R183). -/

namespace Sys2Proof.Machine

/-! ## How far a head is from its settlement -/

/-- The event a phase waits for: the end of its counter, or the report of its write (R10, R23). -/
def Awaits (p : Phase) (e : Event) : Prop :=
  match p with
  | .idle => False
  | .txBusy => ∃ ok, e = .txDone ok
  | .wait => e = .tick
  | .delay => e = .tick
  | .txDrain => ∃ ok, e = .txDone ok

theorem not_awaits_cmd (p : Phase) (w : CmdWord) : ¬ Awaits p (.cmd w) := by
  cases p <;> simp [Awaits]

theorem not_awaits_rxByte (p : Phase) (b : Byte) : ¬ Awaits p (.rxByte b) := by
  cases p <;> simp [Awaits]

/-- A bound on the awaited events that a head still needs: the phases in the order TXDRAIN, DELAY, TXBUSY, WAIT, and the
counters of DELAY and WAIT within them. -/
def remaining (s : State) : Nat :=
  match s.phase with
  | .idle => 0
  | .wait => s.toCnt.toNat
  | .txBusy => 5001
  | .delay => 5001 + s.delayCnt.toNat
  | .txDrain => 5001 + 65536

theorem remaining_congr {s t : State} (hp : t.phase = s.phase) (hto : t.toCnt = s.toCnt)
    (hde : t.delayCnt = s.delayCnt) : remaining t = remaining s := by
  rw [remaining, remaining, hp, hto, hde]

theorem remaining_le_of_launch {s : State} (hp : s.phase = .idle ∨ s.phase = .txBusy) : remaining s ≤ 5001 := by
  rcases hp with hp | hp <;> simp [remaining, hp]

theorem remaining_enterDelay_lt (s : State) : remaining (enterDelay s) < 5001 + 65536 := by
  have hcfg := s.delayCfg.isLt
  have hmem := enterDelay_phase_mem s
  unfold episodePhases at hmem
  split at hmem
  · exact Nat.lt_of_le_of_lt (remaining_le_of_launch (List.mem_pair.1 hmem)) (by decide)
  · rw [remaining, List.mem_singleton.1 hmem, enterDelay_delayCnt]
    exact Nat.add_lt_add_left hcfg _

/-- A step that settles nothing brings the head nearer, or its event is not the awaited one and it stays as far. -/
theorem Reaction.nearer {s t : State} {e : Event} (h : Reaction s e t) (hs : StateInv s) (hq : s.q ≠ [])
    (hidle : s.phase ≠ .idle) (hnone : settleTags t.outs = []) :
    remaining t < remaining s ∨ (t.phase = s.phase ∧ remaining t = remaining s ∧ ¬ Awaits s.phase e) := by
  cases h with
  | answer w => exact .inr ⟨rfl, rfl, not_awaits_cmd _ w⟩
  | start w _ =>
    have hp := start_phase hidle .cmdOk
    exact .inr ⟨hp, remaining_congr hp (by simp) (by simp), not_awaits_cmd _ w⟩
  | accept w kind chan act _ =>
    have hp := enqueue_phase_of_ne_idle hidle kind chan act
    exact .inr ⟨hp, remaining_congr hp (by simp) (by simp), not_awaits_cmd _ w⟩
  | stop => exact absurd hnone (settles_stop hq)
  | byte b => exact .inr ⟨rfl, rfl, not_awaits_rxByte _ b⟩
  | response _ _ _ _ _ o _ hos' => exact absurd hnone (settles_response o hos' hq)
  | written hp => exact .inl (by simp [remaining, hp])
  | writeFailed => exact absurd hnone (settles_settleHead _ hq)
  | drained _ hp =>
    left
    rw [show remaining s = 5001 + 65536 by rw [remaining, hp]]
    exact remaining_enterDelay_lt s
  | strayReport _ hp => exact .inr ⟨rfl, rfl, by rcases hp with hp | hp | hp <;> simp [Awaits, hp]⟩
  | waitTick hp _ =>
    have hpos := hs.timeout.1 hp
    left
    simp only [remaining, hp]
    exact (toNat_sub_one hpos).trans_lt (Nat.sub_one_lt_of_lt hpos)
  | timeout => exact absurd hnone (settles_settleHead _ hq)
  | delayTick hp _ =>
    have hpos := hs.delay.1 hp
    left
    simp only [remaining, hp]
    exact Nat.add_lt_add_left ((toNat_sub_one hpos).trans_lt (Nat.sub_one_lt_of_lt hpos)) _
  | delayOver hp hc =>
    left
    rw [show remaining s = 5002 by simp [remaining, hp, hc]]
    refine Nat.lt_succ_of_le (remaining_le_of_launch ?_)
    exact (tryLaunch_phase { s with delayCnt := 0, phase := .idle }).imp_right And.right
  | untimedTick hp => exact .inr ⟨rfl, rfl, by rcases hp with hp | hp | hp <;> simp [Awaits, hp]⟩

/-! ## Unending runs -/

/-- The premises of R183: an unending run without Reset from a state with the invariant, with its environment. -/
structure FairRun (ev : Nat → Event) (st : Nat → State) : Prop where
  run : IsRun ev st
  start : StateInv (st 0)
  noReset : ∀ n, ev n ≠ .reset
  reported : WritesAreReported ev st
  ticks : TicksNeverStop ev

theorem FairRun.inv {ev : Nat → Event} {st : Nat → State} (h : FairRun ev st) (n : Nat) : StateInv (st n) := by
  induction n with
  | zero => exact h.start
  | succ n ih => exact stateInv_stepOn ih (h.run n)

/-- With a request queued EFD is running and not in IDLE (I4, I5 of R35). -/
theorem phase_ne_idle_of_queued {s : State} (hs : StateInv s) (hq : s.q ≠ []) : s.phase ≠ .idle := by
  intro hidle
  cases hrun : s.running with
  | true => exact hq (hs.notPostponed hrun hidle)
  | false => exact hq (hs.stopped hrun).1

/-- What the environment promises is what the phases wait for. -/
theorem FairRun.awaited_comes {ev : Nat → Event} {st : Nat → State} (h : FairRun ev st) {n : Nat}
    (hidle : (st n).phase ≠ .idle) : ∃ d, Awaits (st n).phase (ev (n + d)) := by
  have hshift {p : Event → Prop} : (∃ m, n ≤ m ∧ p (ev m)) → ∃ d, p (ev (n + d)) := by
    rintro ⟨m, hle, hm⟩
    exact ⟨m - n, by rwa [Nat.add_sub_of_le hle]⟩
  apply hshift
  cases hp : (st n).phase with
  | idle => exact absurd hp hidle
  | txBusy => exact h.reported n (by rw [writePending, hp]; rfl)
  | txDrain => exact h.reported n (by rw [writePending, hp]; rfl)
  | wait => exact h.ticks n
  | delay => exact h.ticks n

/-! ## The place of a tag in the queue -/

/-- The tag stands at place `i` of the queue. -/
def TagAt (tag : Tag) (i : Nat) (s : State) : Prop := (s.q.map Entry.tag)[i]? = some tag

theorem TagAt.q_ne_nil {tag : Tag} {i : Nat} {s : State} (h : TagAt tag i s) : s.q ≠ [] := by
  intro hq
  simp [TagAt, hq] at h

/-- A tag in front of what is taken is taken; one behind moves forward by as many places (R181). -/
theorem taken_or_moves {q acc settled q' : List Tag} {tag : Tag} {i : Nat} (h : q ++ acc = settled ++ q')
    (hat : q[i]? = some tag) : tag ∈ settled ∨ (settled.length ≤ i ∧ q'[i - settled.length]? = some tag) := by
  have hi : (settled ++ q')[i]? = some tag := by
    rw [← h, List.getElem?_append_left (List.getElem?_eq_some_iff.1 hat).1, hat]
  by_cases hlt : i < settled.length
  · rw [List.getElem?_append_left hlt] at hi
    exact .inl (List.mem_of_getElem? hi)
  · rw [List.getElem?_append_right (Nat.not_lt.1 hlt)] at hi
    exact .inr ⟨Nat.not_lt.1 hlt, hi⟩

/-- A step settles the tag, moves it forward, or settles nothing and leaves it at its place. -/
theorem tagAt_of_stepOn {s t : State} {e : Event} {tag : Tag} {i : Nat} (hne : e ≠ .reset) (h : stepOn e s = .next t)
    (hat : TagAt tag i s) :
    tag ∈ settleTags t.outs ∨ (∃ j, j < i ∧ TagAt tag j t) ∨ (settleTags t.outs = [] ∧ TagAt tag i t) := by
  rcases taken_or_moves (tags_of_stepOn hne h) hat with hmem | ⟨hle, hmoved⟩
  · exact .inl hmem
  · by_cases hnone : settleTags t.outs = []
    · rw [hnone] at hmoved
      exact .inr (.inr ⟨hnone, hmoved⟩)
    · have hpos := List.length_pos_iff.2 hnone
      exact .inr (.inl ⟨_, by omega, hmoved⟩)

/-! ## Every queued request settles -/

/-- Nearer to settlement: at an earlier place of the queue, or at the same place with less that the head needs. -/
def Nearer (j : Nat) (t : State) (i : Nat) (s : State) : Prop :=
  Prod.Lex (· < ·) (· < ·) (j, remaining t) (i, remaining s)

theorem nearer_congr {j i : Nat} {t s u : State} (h : remaining u = remaining s) (hn : Nearer j t i u) :
    Nearer j t i s := by
  unfold Nearer at hn ⊢
  rwa [← h]

/-- One step settles the tag, or brings it forward or nearer at its place, or its event is not the awaited one. -/
theorem FairRun.settles_or_advances_or_stays {ev : Nat → Event} {st : Nat → State} (h : FairRun ev st) {tag : Tag}
    {i n : Nat} (hat : TagAt tag i (st n)) :
    tag ∈ settleTags (st (n + 1)).outs ∨
      (∃ j, TagAt tag j (st (n + 1)) ∧ Nearer j (st (n + 1)) i (st n)) ∨
      (TagAt tag i (st (n + 1)) ∧ (st (n + 1)).phase = (st n).phase ∧ remaining (st (n + 1)) = remaining (st n) ∧
        ¬ Awaits (st n).phase (ev n)) := by
  have hq := hat.q_ne_nil
  rcases tagAt_of_stepOn (h.noReset n) (h.run n) hat with hmem | ⟨j, hlt, hj⟩ | ⟨hnone, hi⟩
  · exact .inl hmem
  · exact .inr (.inl ⟨j, hj, .left _ _ hlt⟩)
  · have hstart : StateInv ((st n).taking []) := { h.inv n with }
    rcases (reaction_of_stepOn (h.noReset n) (h.run n)).nearer hstart hq (phase_ne_idle_of_queued hstart hq) hnone
      with hlt | ⟨hp, hsame, hnot⟩
    · exact .inr (.inl ⟨i, hi, .right _ hlt⟩)
    · exact .inr (.inr ⟨hi, hp, hsame, hnot⟩)

/-- By the time the awaited event comes, the tag has settled, moved forward, or come nearer at its place. -/
theorem FairRun.settles_or_advances {ev : Nat → Event} {st : Nat → State} (h : FairRun ev st) {tag : Tag} {i : Nat}
    (d n : Nat) (hat : TagAt tag i (st n)) (hawait : Awaits (st n).phase (ev (n + d))) :
    ∃ k, n ≤ k ∧ (tag ∈ settleTags (st (k + 1)).outs ∨
      ∃ j, TagAt tag j (st (k + 1)) ∧ Nearer j (st (k + 1)) i (st n)) := by
  induction d generalizing n with
  | zero =>
    rcases h.settles_or_advances_or_stays hat with hmem | hnear | ⟨_, _, _, hnot⟩
    · exact ⟨n, le_rfl, .inl hmem⟩
    · exact ⟨n, le_rfl, .inr hnear⟩
    · exact absurd hawait hnot
  | succ d ih =>
    rcases h.settles_or_advances_or_stays hat with hmem | hnear | ⟨hi, hp, hsame, _⟩
    · exact ⟨n, le_rfl, .inl hmem⟩
    · exact ⟨n, le_rfl, .inr hnear⟩
    · rw [← hp, show n + (d + 1) = n + 1 + d by omega] at hawait
      obtain ⟨k, hle, hk⟩ := ih (n + 1) hi hawait
      exact ⟨k, Nat.le_of_succ_le hle, hk.imp_right fun ⟨j, hj, hn⟩ => ⟨j, hj, nearer_congr hsame hn⟩⟩

/-- A queued tag settles, by recursion on its place and, at the same place, on what its head still needs. -/
theorem FairRun.tag_settles {ev : Nat → Event} {st : Nat → State} (h : FairRun ev st) {tag : Tag} (i n : Nat)
    (hat : TagAt tag i (st n)) : ∃ m, n ≤ m ∧ tag ∈ settleTags (st (m + 1)).outs := by
  obtain ⟨d, hawait⟩ := h.awaited_comes (phase_ne_idle_of_queued (h.inv n) hat.q_ne_nil)
  obtain ⟨k, hle, hmem | ⟨j, hj, hlt⟩⟩ := h.settles_or_advances d n hat hawait
  · exact ⟨k, hle, hmem⟩
  · obtain ⟨m, hm, hmem⟩ := h.tag_settles j (k + 1) hj
    exact ⟨m, by omega, hmem⟩
termination_by (i, remaining (st n))
decreasing_by exact hlt

/-- Settles O60: a queued request has a place in the queue, and from every place its tag settles. -/
theorem everyRequestSettlesSomeTime : Obligations.EveryRequestSettlesSomeTime := by
  intro ev st hrun hstart hreset hreported hticks n e he
  have hfair : FairRun ev st := ⟨hrun, hstart, hreset, hreported, hticks⟩
  obtain ⟨i, hi⟩ := List.mem_iff_getElem?.1 (List.mem_map_of_mem (f := Entry.tag) he)
  exact hfair.tag_settles i n hi

end Sys2Proof.Machine
end

section
/-! SUPPORT. The control operations NOP, START, STOP and SETDELAY (R190 to R193), the refusal of an undefined operation
code (R194), and the one answer that every command word has (R195). -/

namespace Sys2Proof.Machine

/-! ## NOP and SETDELAY -/

/-- Settles O20: the meaning of NOP is the answer alone. -/
theorem nopAnswersAndChangesNothing : Obligations.NopAnswersAndChangesNothing :=
  fun _ _ _ => rfl

/-- Settles O23: the meaning of SETDELAY is one register write and the answer. -/
theorem setDelayWritesOnlyTheDelayRegister : Obligations.SetDelayWritesOnlyTheDelayRegister :=
  fun _ _ _ => rfl

/-! ## START -/

/-- With nothing queued in IDLE there is nothing to launch (R161). -/
theorem tryLaunch_of_idle_empty {s : State} (h : s.phase = .idle → s.q = []) : tryLaunch s = s := by
  by_cases hidle : s.phase = .idle
  · exact tryLaunch_of_none (launchFrame_empty (h hidle))
  · exact tryLaunch_of_phase hidle

/-- Settles O21: the launch behind START finds no entry in IDLE. -/
theorem startSetsRunningOnly : Obligations.StartSetsRunningOnly := by
  intro chan arg s hidle
  exact congrArg Host.Outcome.next (tryLaunch_of_idle_empty (s := State.emit { s with running := true } .cmdOk) hidle)

/-! ## STOP -/

/-- While stopped no launch follows a delay of zero, so only the delay and the phase change (R161, R167). -/
theorem enterDelay_of_stopped {s : State} (hstop : s.running = false) :
    enterDelay s = { s with delayCnt := s.delayCfg, phase := if s.delayCfg = 0 then .idle else .delay } := by
  rcases enterDelay_cases s with ⟨hcfg, h⟩ | ⟨hcfg, h⟩ <;> rw [h]
  · rw [tryLaunch_of_none, if_pos hcfg, hcfg]
    exact launchFrame_stopped hstop
  · rw [if_neg hcfg]

theorem rejected_eq (s : State) :
    s.rejected = { s with
      running := false
      q := []
      rb := []
      toCnt := 0
      outs := s.outs ++ .cmdOk :: s.q.map fun e => Output.settle e.tag (.err .dispatcherStopped) } := by
  simp [State.rejected, rejectAll, State.emit]

/-- Settles O22: everything is rejected and cleared first; then an outstanding write is drained, a running timeout gives
way to the delay, and in the other phases nothing more happens. -/
theorem stopRejectsEverythingAndKeepsPacing : Obligations.StopRejectsEverythingAndKeepsPacing := by
  intro chan arg s
  have hexec : exec (.stop chan arg) s = .next (stopPhase s.rejected) := rfl
  rw [hexec]
  rcases stopPhase_cases s.rejected with ⟨hp, h⟩ | ⟨hp, h⟩ | ⟨hp, h⟩ <;> rw [h] <;> rw [rejected_phase] at hp
  · simp [rejected_eq, hp]
  · rw [enterDelay_of_stopped rfl]
    simp [rejected_eq, hp]
  · rcases hp with hp | hp | hp <;> simp [rejected_eq, hp]

/-! ## Undefined operation codes -/

theorem onCmd_of_illegal {w : CmdWord} (hop : opField w ∉ [0x00#8, 0x01#8, 0x02#8, 0x03#8, 0x4A#8, 0x4C#8, 0x4E#8])
    (s : State) : onCmd w s = .next (refuse .illegalOp s) := by
  obtain ⟨_, _, _, _, _, _, _, hillegal⟩ := operationCodesAreTheSeven w
  simp only [onCmd, hillegal hop]

/-- Settles O24: the word does not decode, and the refusal is the one output. -/
theorem illegalOperationIsRefused : Obligations.IllegalOperationIsRefused := by
  intro s w rest hin hop
  calc step s
      = onCmd w (s.taking rest) := step_eq_react_taking hin
    _ = .next (refuse .illegalOp (s.taking rest)) := onCmd_of_illegal hop _

/-- A word with one of the seven codes is the encoding of an instruction (R81). -/
theorem exists_encode_of_legal {w : CmdWord}
    (hop : opField w ∈ [0x00#8, 0x01#8, 0x02#8, 0x03#8, 0x4A#8, 0x4C#8, 0x4E#8]) : ∃ i, encode i = .word w := by
  simp only [List.mem_cons, List.not_mem_nil, or_false] at hop
  rcases hop with hop | hop | hop | hop | hop | hop | hop
  · exact ⟨.nop _ _, word_of_opField hop⟩
  · exact ⟨.start _ _, word_of_opField hop⟩
  · exact ⟨.stop _ _, word_of_opField hop⟩
  · exact ⟨.setDelay _ _, word_of_opField hop⟩
  · exact ⟨.check _ _, word_of_opField hop⟩
  · exact ⟨.send _ _, word_of_opField hop⟩
  · exact ⟨.info _ _, word_of_opField hop⟩

/-! ## What follows an answer -/

/-- What a command step may emit behind its answer: STOP's rejections, or the frame of a launch (R192, R144, R195). -/
def Output.followsAnswer (o : Output) : Prop :=
  (∃ tag, o = .settle tag (.err .dispatcherStopped)) ∨ ∃ bs, o = .txFrame bs

theorem Output.followsAnswer.not_isAnswer {o : Output} (h : o.followsAnswer) : o.isAnswer = false := by
  rcases h with ⟨tag, rfl⟩ | ⟨bs, rfl⟩ <;> rfl

/-- The outputs begin with `a`, and no other answer follows. -/
def Answered (a : Output) (t : State) : Prop := ∃ os, t.outs = a :: os ∧ ∀ o ∈ os, o.followsAnswer

theorem answered_emit {s : State} (h0 : s.outs = []) (a : Output) : Answered a (s.emit a) :=
  ⟨[], by simp [h0], by simp⟩

theorem Answered.tryLaunch {a : Output} {s : State} (h : Answered a s) : Answered a (tryLaunch s) := by
  rcases tryLaunch_cases s with ⟨_, he⟩ | ⟨bs, _, he⟩ <;> rw [he]
  · exact h
  · obtain ⟨os, houts, hos⟩ := h
    refine ⟨os ++ [.txFrame bs], by simp [houts], fun o ho => ?_⟩
    rcases List.mem_append.1 ho with ho | ho
    · exact hos o ho
    · exact .inr ⟨bs, List.mem_singleton.1 ho⟩

theorem Answered.enterDelay {a : Output} {s : State} (h : Answered a s) : Answered a (enterDelay s) := by
  rcases enterDelay_cases s with ⟨_, he⟩ | ⟨_, he⟩ <;> rw [he]
  · exact Answered.tryLaunch (s := { s with delayCnt := 0, phase := .idle }) h
  · exact h

theorem Answered.stopPhase {a : Output} {s : State} (h : Answered a s) : Answered a (stopPhase s) := by
  rcases stopPhase_cases s with ⟨_, he⟩ | ⟨_, he⟩ | ⟨_, he⟩ <;> rw [he]
  · exact h
  · exact h.enterDelay
  · exact h

theorem answered_rejected {s : State} (h0 : s.outs = []) : Answered .cmdOk s.rejected := by
  refine ⟨s.q.map fun e => .settle e.tag (.err .dispatcherStopped), by simp [rejected_outs, h0], fun o ho => ?_⟩
  obtain ⟨e, _, rfl⟩ := List.mem_map.1 ho
  exact .inl ⟨e.tag, rfl⟩

/-! ## The answer to a command word -/

/-- The answer `a` to a word with operation code `op`, and the state `t` that the reaction leads to (R140, R194, R195). -/
inductive Answer (s : State) (op : BitVec 8) : Output → State → Prop where
  | control (t : State) (hop : op ∈ [0x00#8, 0x01#8, 0x02#8, 0x03#8]) (ht : Answered .cmdOk t) : Answer s op .cmdOk t
  | accept (t : State) (hop : op ∈ [0x4A#8, 0x4C#8, 0x4E#8]) (ht : Answered (.accept s.nextTag) t) :
    Answer s op (.accept s.nextTag) t
  | refused (e : Err) (hop : op ∈ [0x4A#8, 0x4C#8, 0x4E#8]) : Answer s op (.refuse e) (refuse e s)
  | illegal (hop : op ∉ [0x00#8, 0x01#8, 0x02#8, 0x03#8, 0x4A#8, 0x4C#8, 0x4E#8]) :
    Answer s op (.refuse .illegalOp) (refuse .illegalOp s)

theorem answer_admitRequest {s : State} {op : BitVec 8} (h0 : s.outs = []) (hop : op ∈ [0x4A#8, 0x4C#8, 0x4E#8])
    (kind : Kind) (chan : BitVec 4) (act : Byte) : ∃ a, Answer s op a (admitRequest kind chan act s) := by
  rcases admitRequest_cases kind chan act s with ⟨_, h⟩ | ⟨_, _, h⟩ | ⟨_, _, h⟩ <;> rw [h]
  · exact ⟨_, .refused _ hop⟩
  · exact ⟨_, .refused _ hop⟩
  · exact ⟨_, .accept _ hop (Answered.tryLaunch (answered_emit h0 _))⟩

theorem answer_exec {s t : State} {w : CmdWord} {i : Instr} (h0 : s.outs = []) (hw : encode i = .word w)
    (h : exec i s = .next t) : ∃ a, Answer s (opField w) a t := by
  cases i <;> cases hw
  case nop chan arg =>
    cases h
    exact ⟨_, .control _ (by simp) (answered_emit h0 _)⟩
  case start chan arg =>
    cases h
    exact ⟨_, .control _ (by simp) (Answered.tryLaunch (answered_emit h0 _))⟩
  case stop chan arg =>
    cases h
    exact ⟨_, .control _ (by simp) (Answered.stopPhase (answered_rejected h0))⟩
  case setDelay chan arg =>
    cases h
    exact ⟨_, .control _ (by simp) (answered_emit h0 _)⟩
  case check chan arg =>
    cases h
    exact answer_admitRequest h0 (by simp) _ _ _
  case send chan arg =>
    rcases exec_send_cases h with ⟨e, rfl⟩ | ⟨_, _, rfl⟩
    · exact ⟨_, .refused e (by simp)⟩
    · exact answer_admitRequest h0 (by simp) _ _ _
  case info chan arg =>
    rcases exec_info_cases h with rfl | ⟨_, rfl⟩
    · exact ⟨_, .refused _ (by simp)⟩
    · exact answer_admitRequest h0 (by simp) _ _ _

theorem answer_onCmd {s t : State} {w : CmdWord} (h0 : s.outs = []) (h : onCmd w s = .next t) :
    ∃ a, Answer s (opField w) a t := by
  by_cases hop : opField w ∈ [0x00#8, 0x01#8, 0x02#8, 0x03#8, 0x4A#8, 0x4C#8, 0x4E#8]
  · obtain ⟨i, hi⟩ := exists_encode_of_legal hop
    rw [onCmd_of_decode (decodeWord_of_encode hi)] at h
    exact answer_exec h0 hi h
  · rw [onCmd_of_illegal hop] at h
    cases h
    exact ⟨_, .illegal hop⟩

theorem Answer.isAnswer {s t : State} {op : BitVec 8} {a : Output} (h : Answer s op a t) : a.isAnswer = true := by
  cases h <;> rfl

theorem Answer.answered {s t : State} {op : BitVec 8} {a : Output} (h0 : s.outs = []) (h : Answer s op a t) :
    Answered a t := by
  cases h with
  | control _ _ ht => exact ht
  | accept _ _ ht => exact ht
  | refused e _ => exact answered_emit h0 _
  | illegal _ => exact answered_emit h0 _

/-- A refusal is the whole effect (R212). -/
theorem Answer.eq_of_refuse {s t : State} {op : BitVec 8} {e : Err} (h : Answer s op (.refuse e) t) :
    t = refuse e s := by
  cases h <;> rfl

theorem not_request_of_control {op : BitVec 8} (h : op ∈ [0x00#8, 0x01#8, 0x02#8, 0x03#8]) :
    op ∉ [0x4A#8, 0x4C#8, 0x4E#8] := by
  simp only [List.mem_cons, List.not_mem_nil, or_false] at h
  rcases h with rfl | rfl | rfl | rfl <;> decide

theorem Answer.of_control {s t : State} {op : BitVec 8} {a : Output} (h : Answer s op a t)
    (hop : op ∈ [0x00#8, 0x01#8, 0x02#8, 0x03#8]) : a = .cmdOk := by
  cases h with
  | control _ _ _ => rfl
  | accept _ hreq _ => exact absurd hreq (not_request_of_control hop)
  | refused _ hreq => exact absurd hreq (not_request_of_control hop)
  | illegal hbad => exact absurd (List.mem_append_left [0x4A#8, 0x4C#8, 0x4E#8] hop) hbad

theorem Answer.of_request {s t : State} {op : BitVec 8} {a : Output} (h : Answer s op a t)
    (hop : op ∈ [0x4A#8, 0x4C#8, 0x4E#8]) : a = .accept s.nextTag ∨ ∃ e, a = .refuse e := by
  cases h with
  | control _ hctl _ => exact absurd hop (not_request_of_control hctl)
  | accept _ _ _ => exact .inl rfl
  | refused e _ => exact .inr ⟨e, rfl⟩
  | illegal _ => exact .inr ⟨_, rfl⟩

theorem Answer.of_illegal {s t : State} {op : BitVec 8} {a : Output} (h : Answer s op a t)
    (hop : op ∉ [0x00#8, 0x01#8, 0x02#8, 0x03#8, 0x4A#8, 0x4C#8, 0x4E#8]) : a = .refuse .illegalOp := by
  have hneither : op ∉ [0x00#8, 0x01#8, 0x02#8, 0x03#8] ++ [0x4A#8, 0x4C#8, 0x4E#8] := hop
  rw [List.mem_append, not_or] at hneither
  obtain ⟨hctl, hreq⟩ := hneither
  cases h with
  | control _ h _ => exact absurd h hctl
  | accept _ h _ => exact absurd h hreq
  | refused _ h => exact absurd h hreq
  | illegal _ => rfl

/-- Settles O25: the step starts without outputs, so the answer its reaction gives comes first, and the operation code
says which answer it can be. -/
theorem everyCommandHasOneAnswerFirst : Obligations.EveryCommandHasOneAnswerFirst := by
  intro s w rest hin
  obtain ⟨t, ht⟩ := everyStepGivesANextState s
  have hreact : onCmd w (s.taking rest) = .next t := (step_eq_react_taking hin).symm.trans ht
  obtain ⟨a, hans⟩ := answer_onCmd (taking_outs s rest) hreact
  obtain ⟨os, houts, hos⟩ := hans.answered (taking_outs s rest)
  refine ⟨t, a, os, ht, houts, hans.isAnswer, fun o ho => (hos o ho).not_isAnswer, hans.of_control, hans.of_request,
    hans.of_illegal, fun e he => ?_, hos⟩
  subst he
  exact hans.eq_of_refuse

end Sys2Proof.Machine
end

section
/-! SUPPORT. The table of errors (R200), and what the step of a received byte emits, in which order (R210). -/

namespace Sys2Proof.Machine

/-! ## Errors -/

/-- Settles O53: the two columns of the table are the values of `Err.code` and `Err.errClass`. -/
theorem errorCodesAndClasses : Obligations.ErrorCodesAndClasses :=
  rfl

/-! ## At most one output of a kind -/

/-! The three kinds of output that a received byte can cause (R8, R210). -/

def Output.IsStatus (o : Output) : Prop := ∃ c st, o = .statusUpdate c st
def Output.IsSettle (o : Output) : Prop := ∃ tag out, o = .settle tag out
def Output.IsFrame (o : Output) : Prop := ∃ bs, o = .txFrame bs

/-- One output of the kind `P`, or none. -/
structure AtMostOne (P : Output → Prop) (os : List Output) : Prop where
  length : os.length ≤ 1
  kind : ∀ o ∈ os, P o

theorem atMostOne_nil (P : Output → Prop) : AtMostOne P [] := ⟨Nat.zero_le 1, by simp⟩

theorem atMostOne_singleton {P : Output → Prop} {o : Output} (h : P o) : AtMostOne P [o] := ⟨Nat.le_refl 1, by simpa⟩

theorem atMostOne_statusOutputs (high low status : Byte) :
    AtMostOne Output.IsStatus (statusOutputs high low status) := by
  unfold statusOutputs
  split
  · exact atMostOne_nil _
  · exact atMostOne_singleton ⟨_, _, rfl⟩

/-! ## What the end of an episode emits -/

/-- Where the delay starts a frame may follow, and then only because there is no delay (R167). -/
theorem enterDelay_outs (s : State) :
    ∃ tx, (enterDelay s).outs = s.outs ++ tx ∧ AtMostOne Output.IsFrame tx ∧ (tx ≠ [] → s.delayCfg = 0) := by
  rcases enterDelay_cases s with ⟨hcfg, h⟩ | ⟨_, h⟩ <;> rw [h]
  · rcases tryLaunch_cases { s with delayCnt := 0, phase := .idle } with ⟨_, hl⟩ | ⟨bs, _, hl⟩ <;> rw [hl]
    · exact ⟨[], (List.append_nil _).symm, atMostOne_nil _, fun _ => hcfg⟩
    · exact ⟨[.txFrame bs], rfl, atMostOne_singleton ⟨bs, rfl⟩, fun _ => hcfg⟩
  · exact ⟨[], (List.append_nil _).symm, atMostOne_nil _, fun h => absurd rfl h⟩

/-- The settlement of the head comes before the frame of the next request (R166, R167). -/
theorem settleHead_outs {s : State} {e : Entry} {rest : List Entry} (o : Settlement) (hq : s.q = e :: rest) :
    ∃ tx, (settleHead o s).outs = s.outs ++ [.settle e.tag o] ++ tx ∧ AtMostOne Output.IsFrame tx ∧
      (tx ≠ [] → s.delayCfg = 0) := by
  rw [settleHead, hq]
  exact enterDelay_outs (State.emit { s with q := rest, toCnt := 0 } (.settle e.tag o))

/-! ## What a received byte emits -/

/-- A status push, a settlement and a frame, in this order, each at most once, and the frame only without a delay
(R210). -/
def ByteOutputs (delayCfg : BitVec 16) (os : List Output) : Prop :=
  ∃ su se tx, os = su ++ se ++ tx ∧ AtMostOne Output.IsStatus su ∧ AtMostOne Output.IsSettle se ∧
    AtMostOne Output.IsFrame tx ∧ (tx ≠ [] → delayCfg = 0)

theorem byteOutputs_of_status {d : BitVec 16} {os : List Output} (h : AtMostOne Output.IsStatus os) :
    ByteOutputs d os :=
  ⟨os, [], [], by simp, h, atMostOne_nil _, atMostOne_nil _, fun hne => absurd rfl hne⟩

theorem byteOutputs_nil (d : BitVec 16) : ByteOutputs d [] := byteOutputs_of_status (atMostOne_nil _)

theorem byteOutputs_settleHead {s : State} {e : Entry} {rest : List Entry} (o : Settlement) (hq : s.q = e :: rest)
    (hsu : AtMostOne Output.IsStatus s.outs) : ByteOutputs s.delayCfg (settleHead o s).outs := by
  obtain ⟨tx, houts, htx, hcfg⟩ := settleHead_outs o hq
  exact ⟨s.outs, _, tx, houts, hsu, atMostOne_singleton ⟨_, _, rfl⟩, htx, hcfg⟩

/-- One delivery emits at most a push, then what settling the head emits (R124, R125). -/
theorem byteOutputs_deliver {c : List Byte} {s t : State} (h0 : s.outs = []) (h : deliver c s = .next t) :
    ByteOutputs s.delayCfg t.outs := by
  have hnone : AtMostOne Output.IsStatus s.outs := h0 ▸ atMostOne_nil _
  rcases deliver_cases h with rfl | ⟨high, low, rfl⟩ | ⟨high, low, status, rfl⟩
  · exact byteOutputs_of_status hnone
  · rcases deliverConfirm_cases high low s with ⟨_, he⟩ | ⟨hm, he⟩ <;> rw [he]
    · exact byteOutputs_of_status hnone
    · obtain ⟨_, e, rest, hq, _⟩ := (confirmMatches_iff s).1 hm
      exact byteOutputs_settleHead _ hq hnone
  · have hpush : pushStatus high low status s = { s with outs := statusOutputs high low status } := by
      rw [pushStatus_eq_statusOutputs, h0, List.nil_append]
    have hone := atMostOne_statusOutputs high low status
    rcases deliverAck_cases high low status s with ⟨_, he⟩ | ⟨hm, he⟩ <;> rw [he, hpush]
    · exact byteOutputs_of_status hone
    · obtain ⟨_, e, rest, hq, _⟩ := (ackMatches_iff s).1 hm
      exact byteOutputs_settleHead (s := { s with outs := statusOutputs high low status }) .done hq hone

/-- From a buffer without a complete candidate, the step of a byte emits nothing, or it is one delivery: that of the
whole buffer, if the byte completes a frame (R120, R121, R122, R128). -/
theorem step_rxByte_cases {s t : State} {b : Byte} {rest : List Event} (hin : s.inputs = .rxByte b :: rest)
    (hpart : parseFrame s.rb = .notEnoughData) (h : step s = .next t) :
    t.outs = [] ∨ deliver (s.rb ++ [b]) { s with rb := [], inputs := rest, outs := [] } = .next t := by
  by_cases hrun : s.running = true
  · obtain ⟨hincomplete, hcorrupt, _⟩ := incompleteStaysCorruptGoesSilently s b rest hin hrun hpart
    cases hverdict : parseFrame (s.rb ++ [b]) with
    | notEnoughData =>
      rw [hincomplete hverdict] at h
      cases h
      exact .inl rfl
    | malformedLength | badHeader | checksumMismatch =>
      rw [hcorrupt (by simp [hverdict])] at h
      cases h
      exact .inl rfl
    | frame command payload =>
      have hcand := candidate_of_completed_frame hpart hverdict
      obtain ⟨u, hu⟩ := deliver_next (s.rb ++ [b]) { s with rb := [], inputs := rest, outs := [] }
      rw [step_rxByte_of_running hin hrun,
        drain_of_frame (s := { s with rb := s.rb ++ [b], inputs := rest, outs := [] }) hverdict hcand hu] at h
      exact .inr (hu.trans h)
  · rw [bytesAreDiscardedWhileStopped s b rest hin (by simpa using hrun)] at h
    cases h
    exact .inl rfl

/-- Settles O42: the step emits nothing, or what its one delivery emits. -/
theorem receivedByteEmitsAtMostThreeInOrder : Obligations.ReceivedByteEmitsAtMostThreeInOrder := by
  intro s t b rest hin hpart h
  have houts : ByteOutputs s.delayCfg t.outs := by
    rcases step_rxByte_cases hin hpart h with hnone | hdeliver
    · rw [hnone]
      exact byteOutputs_nil _
    · exact byteOutputs_deliver (s := { s with rb := [], inputs := rest, outs := [] }) rfl hdeliver
  obtain ⟨su, se, tx, heq, hsu, hse, htx, hcfg⟩ := houts
  exact ⟨su, se, tx, heq, hsu.length, hse.length, htx.length, hsu.kind, hse.kind, htx.kind, hcfg⟩

end Sys2Proof.Machine
end

section
/-! SUPPORT. The order of the events of one cycle (R209): a completed response comes before the tick that would time the
request out, and a command after the tick that ends a delay. -/

namespace Sys2Proof.Machine

/-! ## Outputs without a timeout -/

/-- No request was settled with a timeout. -/
def TimeoutFree (os : List Output) : Prop := ∀ tag, .settle tag (.err .responseTimeout) ∉ os

theorem timeoutFree_nil : TimeoutFree [] := by simp [TimeoutFree]

theorem timeoutFree_append {a b : List Output} (ha : TimeoutFree a) (hb : TimeoutFree b) : TimeoutFree (a ++ b) :=
  fun tag h => (List.mem_append.1 h).elim (ha tag) (hb tag)

theorem timeoutFree_done (tag : Tag) : TimeoutFree [.settle tag .done] := by simp [TimeoutFree]

theorem timeoutFree_of_frames {os : List Output} (h : AtMostOne Output.IsFrame os) : TimeoutFree os := by
  intro tag hmem
  obtain ⟨bs, hbs⟩ := h.kind _ hmem
  cases hbs

theorem timeoutFree_of_pushes {os : List Output} (h : Pushes os) : TimeoutFree os := by
  intro tag hmem
  obtain ⟨c, st, heq, _⟩ := h _ hmem
  cases heq

/-- Outside WAIT a tick settles nothing (R172, R173, R174). -/
theorem timeoutFree_tick {s t : State} (hp : s.phase ≠ .wait) (h : stepOn .tick s = .next t) : TimeoutFree t.outs := by
  cases reaction_of_stepOn (by simp) h with
  | waitTick hwait | timeout hwait => exact absurd hwait hp
  | delayTick | untimedTick => exact timeoutFree_nil
  | delayOver =>
    rcases tryLaunch_cases { s.taking [] with delayCnt := 0, phase := .idle } with ⟨_, hl⟩ | ⟨bs, _, hl⟩ <;> rw [hl]
    · exact timeoutFree_nil
    · exact timeoutFree_of_frames (atMostOne_singleton ⟨bs, rfl⟩)

/-- A command word is answered, and settles requests only as STOP does (R192, R195). -/
theorem timeoutFree_cmd {w : CmdWord} {s t : State} (h : stepOn (.cmd w) s = .next t) : TimeoutFree t.outs := by
  obtain ⟨t', a, os, ht, houts, hans, _, _, _, _, _, hrest⟩ :=
    everyCommandHasOneAnswerFirst { s with inputs := [.cmd w] } w [] rfl
  cases ht.symm.trans h
  intro tag hmem
  rw [houts, List.mem_cons] at hmem
  rcases hmem with rfl | hmem
  · cases hans
  · rcases hrest _ hmem with ⟨_, heq⟩ | ⟨_, heq⟩ <;> cases heq

theorem timeoutFree_of_run_cmd {w : Option CmdWord} {s t : State} {os : List Output}
    (h : runEvents (w.map Event.cmd).toList s = some (t, os)) : TimeoutFree os := by
  cases w with
  | none => cases h; exact timeoutFree_nil
  | some w =>
    obtain ⟨u, os', hu, hend, rfl⟩ := runEvents_cons h
    cases hend
    exact timeoutFree_append (timeoutFree_cmd hu) timeoutFree_nil

/-! ## A response and the tick of its timeout -/

/-- The last byte of an ack is its delivery (R121, R125). -/
theorem stepOn_last_byte_of_ack {s : State} {h l st b : Byte} (hrun : s.running = true)
    (hrb : s.rb ++ [b] = [0xAA, 0x05, 0x4D, h, l, st, checksum [0xAA, 0x05, 0x4D, h, l, st]]) :
    stepOn (.rxByte b) s = .next (deliverAck h l st { s.taking [] with rb := [] }) := by
  have hbuild : buildFrame 0x4D [h, l, st] = some (s.rb ++ [b]) := by rw [hrb]; rfl
  obtain ⟨hcand, hparse⟩ := parseFrame_of_buildFrame hbuild
  have hencode : encode (.easyAck h l st (checksum [0xAA, 0x05, 0x4D, h, l, st])) = .frame (s.rb ++ [b]) :=
    congrArg Code.frame hrb.symm
  exact stepOn_rxByte_of_frame hrun hparse hcand ((deliver_of_encode rfl hencode _).trans
    (exec_easyAck_of_running (s := { s.taking [] with rb := [] }) hrun h l st))

/-- The ack of a waiting INFO or SEND: a settlement with `Done`, no timeout, and nothing left waiting (R125, R166). -/
theorem deliverAck_settles {s : State} {e : Entry} {rest : List Entry} (h0 : s.outs = []) (hp : s.phase = .wait)
    (hq : s.q = e :: rest) (hkind : e.kind ≠ .check) (h l st : Byte) :
    .settle e.tag .done ∈ (deliverAck h l st s).outs ∧ TimeoutFree (deliverAck h l st s).outs ∧
      (deliverAck h l st s).phase ≠ .wait := by
  have hmatch : ackMatches s = true := (ackMatches_iff_not_check s).2 ⟨hp, e, rest, hq, hkind⟩
  have hack : deliverAck h l st s = settleHead .done (s.heard s.rb (statusOutputs h l st)) := by
    rw [deliverAck, if_pos hmatch, pushStatus_eq_statusOutputs]
    rfl
  obtain ⟨tx, houts, htx, _⟩ := settleHead_outs (s := s.heard s.rb (statusOutputs h l st)) .done hq
  rw [heard_outs, h0, List.nil_append] at houts
  rw [hack, houts]
  have hpush : TimeoutFree (statusOutputs h l st) := timeoutFree_of_pushes (pushes_statusOutputs h l st)
  exact ⟨by simp, timeoutFree_append (timeoutFree_append hpush (timeoutFree_done e.tag)) (timeoutFree_of_frames htx),
    settleHead_phase_ne_wait .done _⟩

/-! ## The end of a delay and a command -/

/-- An empty queue is never full, since `QDEPTH` is at least 1 (R5). -/
theorem capacity_ne_zero (d : Config.QDepth) : d.capacity ≠ some 0 := by
  cases d <;> simp [Config.QDepth.capacity]

theorem stepOn_tick_of_delay_over {s : State} (hp : s.phase = .delay) (hcnt : s.delayCnt = 1) (hq : s.q = []) :
    stepOn .tick s = .next { s.taking [] with delayCnt := 0, phase := .idle } :=
  onTick_of_delay_over_idle (s := s.taking []) hp hcnt (.inr hq)

/-- In IDLE with an empty queue a CHECK is accepted and sent in its own step (R141, R144). -/
theorem stepOn_check_of_idle {s : State} (hrun : s.running = true) (hp : s.phase = .idle) (hq : s.q = [])
    (chan : BitVec 8) (arg : BitVec 16) :
    ∃ t, stepOn (.cmd (cmdWord 0x4A chan arg)) s = .next t ∧
      t.outs = [.accept s.nextTag, .txFrame [0xAA, 0x02, 0x4A, 0x0A]] := by
  have hroom : s.qdepth.capacity ≠ some s.q.length := hq ▸ capacity_ne_zero s.qdepth
  have hdec : decodeWord (cmdWord 0x4A chan arg) = .ok (.check chan arg) := decodeWord_of_encode rfl
  have hexec := checkIsAcceptedAndLaunched chan arg (s.taking []) hrun hroom fun _ => hq
  have hstep : stepOn (.cmd (cmdWord 0x4A chan arg)) s = _ := (onCmd_of_decode hdec (s.taking [])).trans hexec
  exact ⟨_, hstep, congrArg (Output.accept s.nextTag :: ·) (if_pos hp)⟩

/-- Settles O46: the byte's step settles the request and leaves WAIT, so neither the tick nor the command can time it
out; and the tick's step leaves IDLE with an empty queue to the command's. -/
theorem oneCycleOrderFavoursResponseAndCommand : Obligations.OneCycleOrderFavoursResponseAndCommand := by
  constructor
  · intro s t os e rest h l st b w hrun hp _ hq hkind hrb hcycle
    obtain ⟨u, _, hu, htail, rfl⟩ := runEvents_cons hcycle
    obtain ⟨v, _, hv, hcmd, rfl⟩ := runEvents_cons htail
    cases (stepOn_last_byte_of_ack hrun hrb).symm.trans hu
    obtain ⟨hdone, hfree, hover⟩ := deliverAck_settles (s := { s.taking [] with rb := [] }) rfl hp hq hkind h l st
    have hnone :=
      timeoutFree_append hfree (timeoutFree_append (timeoutFree_tick hover hv) (timeoutFree_of_run_cmd hcmd))
    exact ⟨List.mem_append_left _ hdone, hnone e.tag⟩
  · intro s chan arg hrun hp hcnt hq
    obtain ⟨t, ht, houts⟩ :=
      stepOn_check_of_idle (s := { s.taking [] with delayCnt := 0, phase := .idle }) hrun rfl hq chan arg
    refine ⟨t, ?_⟩
    calc runEvents [.tick, .cmd (cmdWord 0x4A chan arg)] s
        = some (t, [] ++ (t.outs ++ [])) := by
          rw [runEvents_cons_of_next (stepOn_tick_of_delay_over hp hcnt hq), runEvents_cons_of_next ht]
          rfl
      _ = some (t, [.accept s.nextTag, .txFrame [0xAA, 0x02, 0x4A, 0x0A]]) := by
          rw [houts]
          rfl

end Sys2Proof.Machine
end

section
/-! SUPPORT. The step of the Reset event (R230, R231). -/

namespace Sys2Proof.Machine

/-- A Reset keeps the parameter and the events still to come and nothing else, the queue and the outputs among what is
lost (R37, R230). -/
theorem step_reset {s : State} {rest : List Event} (h : s.inputs = .reset :: rest) :
    step s = .next { State.reset with qdepth := s.qdepth, inputs := rest } := by
  rw [step_of_inputs h, react, onReset]

/-- Settles O15: the step answers the reset state but for the parameter and the pending events, so the eight items have
the values of R36, and its output list is the reset state's empty one. -/
theorem resetEventClearsEverythingSilently : Obligations.ResetEventClearsEverythingSilently := by
  intro s rest hin
  obtain ⟨hrunning, hphase, htoCnt, hdelayCnt, hdelayCfg, hnextTag, hq, hrb, _⟩ := resetStateHasTheStatedValues
  exact ⟨_, step_reset hin, hrunning, hphase, htoCnt, hdelayCnt, hdelayCfg, hnextTag, hq, hrb, rfl⟩

end Sys2Proof.Machine
end

section
/-! SUPPORT. The running of an inbound frame that no step delivers: one run while stopped, or with a wrong checksum. -/

namespace Sys2Proof.Machine

/-- A frame is not received while stopped (R120), nor with a wrong checksum (R107). -/
theorem not_received {s : State} {covered : List Byte} {cks : Byte}
    (h : s.running = false ∨ (cks == checksum covered) = false) : ¬ received s covered cks = true := by
  rw [received, Bool.and_eq_true]
  rintro ⟨hrun, hcks⟩
  rcases h with hstopped | hwrong
  · exact Bool.false_ne_true (hstopped.symm.trans hrun)
  · exact Bool.false_ne_true (hwrong.symm.trans hcks)

theorem exec_easyConfirm_of_not_received {s : State} {h l k : Byte}
    (hnot : ¬ received s [0xAA, 0x04, 0x4B, h, l] k = true) : exec (.easyConfirm h l k) s = .next s :=
  congrArg Host.Outcome.next (if_neg hnot)

theorem exec_easyAck_of_not_received {s : State} {h l st k : Byte}
    (hnot : ¬ received s [0xAA, 0x05, 0x4D, h, l, st] k = true) : exec (.easyAck h l st k) s = .next s :=
  congrArg Host.Outcome.next (if_neg hnot)

/-- Settles O36: both inbound rows act only on a received frame, and their well-formedness is the checksum half of that
test. -/
theorem badOrUnheardFramesDoNothing : Obligations.BadOrUnheardFramesDoNothing := by
  intro s i hdir hbad
  cases i <;> simp only [Instr.dir, reduceCtorEq] at hdir
  case easyConfirm h l k => exact exec_easyConfirm_of_not_received (not_received hbad)
  case easyAck h l st k => exact exec_easyAck_of_not_received (not_received hbad)

end Sys2Proof.Machine
end
